-- ==== Sys2Proof/Word.lean ====
section
/-! DEFINITION. The widths of CORE's values (spec/00_scope.md R7, R9). -/

namespace Sys2Proof

/-- A 4-bit field of an instruction: a register index or a sprite height (R91). -/
abbrev Nibble := BitVec 4

/-- A memory cell, a general register or a timer (R7: `REG_W`, `TIMER_W`). -/
abbrev Byte := BitVec 8

/-- The 12-bit immediate address `nnn` (R91). -/
abbrev Addr := BitVec 12

/-- An opcode, `I`, `PC` or a call-stack entry (R7: `I_W`, `PC_W`). -/
abbrev Word := BitVec 16

/-- The width of `FAULT_ADDR` (spec/10_state.md R37). -/
abbrev FaultAddr := BitVec 17

end Sys2Proof
end

