-- ==== Sys2Proof/Syntax.lean ====
section
/-! DEFINITION. The 35 instructions, one constructor per row of spec/opcode_table.json, in the table's order
(spec/30_encoding.md R98). A field the operation ignores is kept (R100), so that no bit of a word is lost. -/

namespace Sys2Proof

/-- An instruction with its operand fields (spec/30_encoding.md R91, R98). -/
inductive Instr where
  /-- 00E0: clear the display. -/
  | cls
  /-- 00EE: return. -/
  | ret
  /-- 0nnn, but for 00E0 and 00EE: no operation; `nnn` is ignored. -/
  | sys (nnn : Addr)
  /-- 1nnn: jump. -/
  | jp (nnn : Addr)
  /-- 2nnn: call. -/
  | call (nnn : Addr)
  /-- 3xkk: skip if Vx = kk. -/
  | seImm (x : Nibble) (kk : Byte)
  /-- 4xkk: skip if Vx ≠ kk. -/
  | sneImm (x : Nibble) (kk : Byte)
  /-- 5xyz: skip if Vx = Vy; `z` is ignored (R96). -/
  | seReg (x y z : Nibble)
  /-- 6xkk: Vx ← kk. -/
  | ldImm (x : Nibble) (kk : Byte)
  /-- 7xkk: Vx ← Vx + kk, VF untouched. -/
  | addImm (x : Nibble) (kk : Byte)
  /-- 8xy0: Vx ← Vy. -/
  | ldReg (x y : Nibble)
  /-- 8xy1: Vx ← Vx or Vy. -/
  | orReg (x y : Nibble)
  /-- 8xy2: Vx ← Vx and Vy. -/
  | andReg (x y : Nibble)
  /-- 8xy3: Vx ← Vx xor Vy. -/
  | xorReg (x y : Nibble)
  /-- 8xy4: Vx ← Vx + Vy, VF the carry. -/
  | addReg (x y : Nibble)
  /-- 8xy5: Vx ← Vx - Vy, VF is Vx > Vy. -/
  | subReg (x y : Nibble)
  /-- 8xy6: Vx ← Vx shifted right by one, VF the bit shifted out; `y` is ignored. -/
  | shr (x y : Nibble)
  /-- 8xy7: Vx ← Vy - Vx, VF is Vy > Vx. -/
  | subnReg (x y : Nibble)
  /-- 8xyE: Vx ← Vx shifted left by one, VF the bit shifted out; `y` is ignored. -/
  | shl (x y : Nibble)
  /-- 9xyz: skip if Vx ≠ Vy; `z` is ignored (R96). -/
  | sneReg (x y z : Nibble)
  /-- Annn: I ← nnn. -/
  | ldI (nnn : Addr)
  /-- Bnnn: jump to nnn + V0. -/
  | jpV0 (nnn : Addr)
  /-- Cxkk: Vx ← random byte and kk. -/
  | rnd (x : Nibble) (kk : Byte)
  /-- Dxyn: draw an n-row sprite at (Vx, Vy). -/
  | drw (x y n : Nibble)
  /-- Ex9E: skip if key Vx is down. -/
  | skp (x : Nibble)
  /-- ExA1: skip if key Vx is up. -/
  | sknp (x : Nibble)
  /-- Fx07: Vx ← DT. -/
  | ldVxDt (x : Nibble)
  /-- Fx0A: wait for a key, Vx ← its index. -/
  | ldVxK (x : Nibble)
  /-- Fx15: DT ← Vx. -/
  | ldDtVx (x : Nibble)
  /-- Fx18: ST ← Vx. -/
  | ldStVx (x : Nibble)
  /-- Fx1E: I ← I + Vx. -/
  | addI (x : Nibble)
  /-- Fx29: I ← the address of the glyph of Vx. -/
  | ldF (x : Nibble)
  /-- Fx33: store the three decimal digits of Vx at I. -/
  | ldB (x : Nibble)
  /-- Fx55: store V0 to Vx at I. -/
  | stRegs (x : Nibble)
  /-- Fx65: load V0 to Vx from I. -/
  | ldRegs (x : Nibble)
deriving DecidableEq, Repr

end Sys2Proof
end

