-- ==== Sys2Proof/WellFormed.lean ====
section
/-! DEFINITION. Which terms of `Instr` are instructions of CORE. Every field has the width of its encoding, so the
one check left is that a SYS does not carry the word of CLS or of RET (spec/30_encoding.md R95). -/

namespace Sys2Proof

/-- The words 0x00E0 and 0x00EE are CLS and RET and never SYS (R95, R98 rows 1 to 3). -/
def Instr.wellFormed : Instr → Bool
  | .sys nnn => nnn != 0x0E0#12 && nnn != 0x0EE#12
  | _ => true

end Sys2Proof
end

