-- ==== Sys2Proof/Decode.lean ====
section
/-! DEFINITION. Decoding and encoding (spec/30_encoding.md R90 to R100), and the opcode map as the spec prints it. -/

namespace Sys2Proof

/-- Why bytes are no instruction. -/
inductive DecodeError where
  /-- Fewer than two bytes were given: an instruction is two bytes (R90). -/
  | tooShort
  /-- `8xyN` with no such N in the 8-group (R99 (a)). -/
  | invalid8Group (op : Word)
  /-- `Exkk` with no such kk in the E-group (R99 (b)). -/
  | invalidEGroup (op : Word)
  /-- `Fxkk` with no such kk in the F-group (R99 (c)). -/
  | invalidFGroup (op : Word)
deriving DecidableEq, Repr

/-- `op[15:12]`, the top nibble (R91). -/
def opTop (w : Word) : Nibble := w.extractLsb' 12 4

/-- `x = op[11:8]` (R91). -/
def opX (w : Word) : Nibble := w.extractLsb' 8 4

/-- `y = op[7:4]` (R91). -/
def opY (w : Word) : Nibble := w.extractLsb' 4 4

/-- `n = op[3:0]` (R91). -/
def opN (w : Word) : Nibble := w.extractLsb' 0 4

/-- `kk = op[7:0]` (R91). -/
def opKk (w : Word) : Byte := w.extractLsb' 0 8

/-- `nnn = op[11:0]` (R91). -/
def opNnn (w : Word) : Addr := w.extractLsb' 0 12

/-- Layer 2a: the 8-group is told apart by its low nibble, mask 0xF00F (R94; spec/90_conflicts.md C1). -/
def decode8Group (w : Word) : Except DecodeError Instr :=
  let x := opX w
  let y := opY w
  match (opN w).toNat with
  | 0x0 => .ok (.ldReg x y)
  | 0x1 => .ok (.orReg x y)
  | 0x2 => .ok (.andReg x y)
  | 0x3 => .ok (.xorReg x y)
  | 0x4 => .ok (.addReg x y)
  | 0x5 => .ok (.subReg x y)
  | 0x6 => .ok (.shr x y)
  | 0x7 => .ok (.subnReg x y)
  | 0xE => .ok (.shl x y)
  | _ => .error (.invalid8Group w)

/-- Layer 2b: the E-group is told apart by its low byte, mask 0xF0FF (R94). -/
def decodeEGroup (w : Word) : Except DecodeError Instr :=
  match (opKk w).toNat with
  | 0x9E => .ok (.skp (opX w))
  | 0xA1 => .ok (.sknp (opX w))
  | _ => .error (.invalidEGroup w)

/-- Layer 2b: the F-group is told apart by its low byte, mask 0xF0FF (R94). -/
def decodeFGroup (w : Word) : Except DecodeError Instr :=
  let x := opX w
  match (opKk w).toNat with
  | 0x07 => .ok (.ldVxDt x)
  | 0x0A => .ok (.ldVxK x)
  | 0x15 => .ok (.ldDtVx x)
  | 0x18 => .ok (.ldStVx x)
  | 0x1E => .ok (.addI x)
  | 0x29 => .ok (.ldF x)
  | 0x33 => .ok (.ldB x)
  | 0x55 => .ok (.stRegs x)
  | 0x65 => .ok (.ldRegs x)
  | _ => .error (.invalidFGroup w)

/-- The decode procedure (R94): layer 1 (the two full words), then the groups of layer 2, then the top nibbles of
layer 3. The 8-, E- and F-groups have no layer 3 pattern, so a word they do not know is invalid (R99). -/
def decodeWord (w : Word) : Except DecodeError Instr :=
  if w = 0x00E0#16 then .ok .cls
  else if w = 0x00EE#16 then .ok .ret
  else match (opTop w).toNat with
    | 0x0 => .ok (.sys (opNnn w))
    | 0x1 => .ok (.jp (opNnn w))
    | 0x2 => .ok (.call (opNnn w))
    | 0x3 => .ok (.seImm (opX w) (opKk w))
    | 0x4 => .ok (.sneImm (opX w) (opKk w))
    | 0x5 => .ok (.seReg (opX w) (opY w) (opN w))
    | 0x6 => .ok (.ldImm (opX w) (opKk w))
    | 0x7 => .ok (.addImm (opX w) (opKk w))
    | 0x8 => decode8Group w
    | 0x9 => .ok (.sneReg (opX w) (opY w) (opN w))
    | 0xA => .ok (.ldI (opNnn w))
    | 0xB => .ok (.jpV0 (opNnn w))
    | 0xC => .ok (.rnd (opX w) (opKk w))
    | 0xD => .ok (.drw (opX w) (opY w) (opN w))
    | 0xE => decodeEGroup w
    | _ => decodeFGroup w

/-- `{a, b}`: the opcode of two consecutive cells, the lower address the more significant byte (spec/20_memory.md
R63). -/
def wordOfBytes (hi lo : Byte) : Word := hi ++ lo

/-- Decoding any bytes: the instruction of the first two and the bytes after them (R90). -/
def decodeBytes : List Byte → Except DecodeError (Instr × List Byte)
  | hi :: lo :: rest => (decodeWord (wordOfBytes hi lo)).map (fun i => (i, rest))
  | _ => .error .tooShort

/-- Format A (R93): opcode, nnn. -/
def formatA (op : Nibble) (nnn : Addr) : Word := op ++ nnn

/-- Format XK (R93): opcode, x, kk. -/
def formatXK (op x : Nibble) (kk : Byte) : Word := op ++ (x ++ kk)

/-- Formats XY and XYN (R93): opcode, x, y, selector or n. -/
def formatXYN (op x y n : Nibble) : Word := op ++ (x ++ (y ++ n))

/-- The word of an instruction (R93, R98). -/
def encode : Instr → Word
  | .cls => 0x00E0
  | .ret => 0x00EE
  | .sys nnn => formatA 0x0 nnn
  | .jp nnn => formatA 0x1 nnn
  | .call nnn => formatA 0x2 nnn
  | .seImm x kk => formatXK 0x3 x kk
  | .sneImm x kk => formatXK 0x4 x kk
  | .seReg x y z => formatXYN 0x5 x y z
  | .ldImm x kk => formatXK 0x6 x kk
  | .addImm x kk => formatXK 0x7 x kk
  | .ldReg x y => formatXYN 0x8 x y 0x0
  | .orReg x y => formatXYN 0x8 x y 0x1
  | .andReg x y => formatXYN 0x8 x y 0x2
  | .xorReg x y => formatXYN 0x8 x y 0x3
  | .addReg x y => formatXYN 0x8 x y 0x4
  | .subReg x y => formatXYN 0x8 x y 0x5
  | .shr x y => formatXYN 0x8 x y 0x6
  | .subnReg x y => formatXYN 0x8 x y 0x7
  | .shl x y => formatXYN 0x8 x y 0xE
  | .sneReg x y z => formatXYN 0x9 x y z
  | .ldI nnn => formatA 0xA nnn
  | .jpV0 nnn => formatA 0xB nnn
  | .rnd x kk => formatXK 0xC x kk
  | .drw x y n => formatXYN 0xD x y n
  | .skp x => formatXK 0xE x 0x9E
  | .sknp x => formatXK 0xE x 0xA1
  | .ldVxDt x => formatXK 0xF x 0x07
  | .ldVxK x => formatXK 0xF x 0x0A
  | .ldDtVx x => formatXK 0xF x 0x15
  | .ldStVx x => formatXK 0xF x 0x18
  | .addI x => formatXK 0xF x 0x1E
  | .ldF x => formatXK 0xF x 0x29
  | .ldB x => formatXK 0xF x 0x33
  | .stRegs x => formatXK 0xF x 0x55
  | .ldRegs x => formatXK 0xF x 0x65

/-- The two bytes of an instruction in memory order, high byte first (R90; spec/20_memory.md R63). -/
def encodeBytes (i : Instr) : List Byte :=
  [(encode i).extractLsb' 8 8, (encode i).extractLsb' 0 8]

/-- One row of the opcode map: an opcode belongs to it when `op & mask = pat` and no row above has it (R98). -/
structure OpRow where
  mask : Word
  pat : Word
deriving DecidableEq, Repr

/-- The word fits the row's mask and match (R98). -/
def OpRow.fits (r : OpRow) (w : Word) : Bool := w &&& r.mask == r.pat

/-- Rows 1 to 10 of the opcode map (R98). -/
def opRows1 : List OpRow :=
  [⟨0xFFFF, 0x00E0⟩, ⟨0xFFFF, 0x00EE⟩, ⟨0xF000, 0x0000⟩, ⟨0xF000, 0x1000⟩, ⟨0xF000, 0x2000⟩,
   ⟨0xF000, 0x3000⟩, ⟨0xF000, 0x4000⟩, ⟨0xF000, 0x5000⟩, ⟨0xF000, 0x6000⟩, ⟨0xF000, 0x7000⟩]

/-- Rows 11 to 19, the 8-group (R98). -/
def opRows2 : List OpRow :=
  [⟨0xF00F, 0x8000⟩, ⟨0xF00F, 0x8001⟩, ⟨0xF00F, 0x8002⟩, ⟨0xF00F, 0x8003⟩, ⟨0xF00F, 0x8004⟩,
   ⟨0xF00F, 0x8005⟩, ⟨0xF00F, 0x8006⟩, ⟨0xF00F, 0x8007⟩, ⟨0xF00F, 0x800E⟩]

/-- Rows 20 to 24 (R98). -/
def opRows3 : List OpRow :=
  [⟨0xF000, 0x9000⟩, ⟨0xF000, 0xA000⟩, ⟨0xF000, 0xB000⟩, ⟨0xF000, 0xC000⟩, ⟨0xF000, 0xD000⟩]

/-- Rows 25 to 35, the E- and F-groups (R98). -/
def opRows4 : List OpRow :=
  [⟨0xF0FF, 0xE09E⟩, ⟨0xF0FF, 0xE0A1⟩, ⟨0xF0FF, 0xF007⟩, ⟨0xF0FF, 0xF00A⟩, ⟨0xF0FF, 0xF015⟩,
   ⟨0xF0FF, 0xF018⟩, ⟨0xF0FF, 0xF01E⟩, ⟨0xF0FF, 0xF029⟩, ⟨0xF0FF, 0xF033⟩, ⟨0xF0FF, 0xF055⟩,
   ⟨0xF0FF, 0xF065⟩]

/-- The opcode map as the spec prints it, the 35 rows in decode order (R98). -/
def opRows : List OpRow := opRows1 ++ opRows2 ++ opRows3 ++ opRows4

/-- The number of an instruction's row in the opcode map, counted from 0 (R98 column #, less one). -/
def Instr.row : Instr → Nat
  | .cls => 0
  | .ret => 1
  | .sys _ => 2
  | .jp _ => 3
  | .call _ => 4
  | .seImm _ _ => 5
  | .sneImm _ _ => 6
  | .seReg _ _ _ => 7
  | .ldImm _ _ => 8
  | .addImm _ _ => 9
  | .ldReg _ _ => 10
  | .orReg _ _ => 11
  | .andReg _ _ => 12
  | .xorReg _ _ => 13
  | .addReg _ _ => 14
  | .subReg _ _ => 15
  | .shr _ _ => 16
  | .subnReg _ _ => 17
  | .shl _ _ => 18
  | .sneReg _ _ _ => 19
  | .ldI _ => 20
  | .jpV0 _ => 21
  | .rnd _ _ => 22
  | .drw _ _ _ => 23
  | .skp _ => 24
  | .sknp _ => 25
  | .ldVxDt _ => 26
  | .ldVxK _ => 27
  | .ldDtVx _ => 28
  | .ldStVx _ => 29
  | .addI _ => 30
  | .ldF _ => 31
  | .ldB _ => 32
  | .stRegs _ => 33
  | .ldRegs _ => 34

/-- The opcode whose bits, numbered as spec/opcode_table.json numbers them, are the low `nbits` of `w`. -/
def tableWord (nbits w : Nat) : Word := BitVec.ofNat 16 (w % 2 ^ nbits)

/-- The instruction the decoder reads from an instruction whose table bits are `w`: the opcode is laid out high
byte first, as memory holds it, and decoded from those bytes. -/
def decodeTableWord (nbits w : Nat) : Option Instr :=
  let op := tableWord nbits w
  match decodeBytes [op.extractLsb' 8 8, op.extractLsb' 0 8] with
  | .ok (i, _) => some i
  | .error _ => none

end Sys2Proof
end

