-- ==== Sys2Proof/Machine/Font.lean ====
section
/-! DEFINITION. The parameters `FONT_BASE` and `FONT_DATA` (spec/00_scope.md R8; spec/10_state.md R32, R33). -/

namespace Sys2Proof.Machine

/-- `FONT_BASE` (spec/00_scope.md R8). -/
def fontBase : Nat := 0

/-- A value of the parameter `FONT_DATA`: the 80 bytes at 0x000 to 0x04F after reset (R32, R33). -/
abbrev Font := Vector Byte 80

/-- The default `FONT_DATA` (R33): five bytes a digit. UNVERIFIED (log entry 3): the spec's default is the conventional
font, which its source does not give; the field `font` of State holds any other. -/
def fontData : List Byte :=
  [0xF0, 0x90, 0x90, 0x90, 0xF0] ++ [0x20, 0x60, 0x20, 0x20, 0x70] ++
  [0xF0, 0x10, 0xF0, 0x80, 0xF0] ++ [0xF0, 0x10, 0xF0, 0x10, 0xF0] ++
  [0x90, 0x90, 0xF0, 0x10, 0x10] ++ [0xF0, 0x80, 0xF0, 0x10, 0xF0] ++
  [0xF0, 0x80, 0xF0, 0x90, 0xF0] ++ [0xF0, 0x10, 0x20, 0x40, 0x40] ++
  [0xF0, 0x90, 0xF0, 0x90, 0xF0] ++ [0xF0, 0x90, 0xF0, 0x10, 0xF0] ++
  [0xF0, 0x90, 0xF0, 0x90, 0x90] ++ [0xE0, 0x90, 0xE0, 0x90, 0xE0] ++
  [0xF0, 0x80, 0x80, 0x80, 0xF0] ++ [0xE0, 0x90, 0x90, 0x90, 0xE0] ++
  [0xF0, 0x80, 0xF0, 0x80, 0xF0] ++ [0xF0, 0x80, 0xF0, 0x80, 0x80]

/-- The default value of the parameter (R33). -/
def defaultFont : Font := ⟨fontData.toArray, by simp [fontData]⟩

end Sys2Proof.Machine
end

