-- ==== Sys2Proof/Config.lean ====
section
/-! DEFINITION. What is fixed for the machine (spec/00_scope.md R7) and the free values: what the agents outside CORE
answer at each turn, which no rule fixes (R16; spec/92_eei_decisions.md D10, D16). -/

namespace Sys2Proof.Config

/-- `MEM_SIZE` (R7): memory has the addresses 0x000 to 0xFFF. -/
abbrev memSize : Nat := 4096

/-- `PROG_BASE` (R7): the load address and the PC after reset. -/
abbrev progBase : Nat := 0x200

/-- `ROM_MAX` (R7): the longest program image the launch is defined for. -/
abbrev romMax : Nat := 3584

/-- FREE VALUE (DESIGN CHOICE, log entry 1): the 16 key levels the keypad collaborator holds for the n-th step
(spec/10_state.md R34; spec/60_exceptions.md R263). -/
opaque keys : Nat → Word

/-- FREE VALUE (DESIGN CHOICE, log entry 1): the random byte supplied for the n-th step (spec/40_alu.md R133,
under no law: spec/92_eei_decisions.md D10). -/
opaque rnd : Nat → Byte

/-- FREE VALUE (DESIGN CHOICE, log entry 1): how many delay-timer ticks the driver issues before the n-th step
(spec/60_exceptions.md R255: any number, zero included). -/
opaque dtTicks : Nat → Nat

/-- FREE VALUE (DESIGN CHOICE, log entry 1): how many sound-timer ticks the driver issues before the n-th step
(spec/60_exceptions.md R255). -/
opaque stTicks : Nat → Nat

end Sys2Proof.Config
end

