-- ==== Sys2Proof/Machine/State.lean ====
section
/-! DEFINITION. The state of CORE as plain data (spec/10_state.md), with the two input ports a step samples, the status
port and what the loader's port needs (spec/60_exceptions.md R260, R261), the machine's font, and the state after reset (R40, R280). -/

namespace Sys2Proof.Machine

/-- `status`, the outcome of the last step (spec/60_exceptions.md R261; spec/00_scope.md R13). -/
inductive Status where
  /-- One instruction was executed. -/
  | ok
  /-- The key wait found no key down. -/
  | waitKey
  /-- A fault was raised, or the core was halted already. -/
  | fault
deriving DecidableEq, Repr

/-- `CAUSE` (spec/60_exceptions.md R240). -/
inductive Cause where
  /-- No fault since reset. -/
  | none
  | invalidOpcode
  | stackOverflow
  | stackUnderflow
  | addressOutOfRange
  | keyIndexOutOfRange
deriving DecidableEq, Repr

/-- The fault latch (spec/10_state.md R37). -/
structure FaultLatch where
  /-- `HALTED`. -/
  halted : Bool
  /-- `CAUSE`. -/
  cause : Cause
  /-- `FAULT_OP`. -/
  op : Word
  /-- `FAULT_PC`. -/
  pc : Word
  /-- `FAULT_ADDR`. -/
  addr : FaultAddr
deriving DecidableEq, Repr

/-- The latch after reset: all fields 0 (R37, R40). -/
def FaultLatch.clear : FaultLatch := ⟨false, .none, 0, 0, 0⟩

/-- `MEM` (R31): the cells that differ from what they hold after reset, by rising address (log entry 8). -/
abbrev Memory := List Host.Cell

/-- `FB` (R35): 32 rows of 64 pixels, `FB[row][col]`, lit is true. -/
abbrev Display := Vector (Vector Bool 64) 32

/-- Machine State (spec/10_state.md), the ports a step samples and sets, and the driver's turn number. -/
structure State where
  /-- `V[0]` to `V[15]` (R20). -/
  v : Vector Byte 16
  /-- `I` (R24). -/
  i : Word
  /-- `PC` (R25). -/
  pc : Word
  /-- `SP`, two's complement (R27). -/
  sp : Byte
  /-- `STACK` (R28). -/
  stack : Vector Word 16
  /-- `DT` (R29). -/
  dt : Byte
  /-- `ST` (R30). -/
  st : Byte
  /-- `MEM` (R31). -/
  mem : Memory
  /-- `FB` (R35). -/
  fb : Display
  /-- The fault latch (R37). -/
  latch : FaultLatch
  /-- The output port `status` (spec/60_exceptions.md R261; log entry 5). -/
  status : Status
  /-- The input port `keys`: KEYS[k] is bit k (R34; spec/60_exceptions.md R260). -/
  keys : Word
  /-- The input port `rnd` (spec/60_exceptions.md R260). -/
  rnd : Byte
  /-- A step was taken since reset, so the loader's port is closed (spec/60_exceptions.md R260; log entry 6). -/
  launched : Bool
  /-- The parameter `FONT_DATA` of this machine, fixed for it, which every reset writes (R33; spec/00_scope.md R8; log
  entry 15). -/
  font : Font
  /-- The model's own: which turn of the driver comes next (log entry 1). -/
  turn : Nat
deriving DecidableEq, Repr

/-- The machine with the default `FONT_DATA` right after reset, before the program is loaded (spec/10_state.md R40;
spec/70_reset_and_hazards.md R280, R281). No rule gives `rnd` a reset value and `turn` is the model's own: both are
DESIGN CHOICES (log entries 1 and 2). -/
def State.reset : State where
  v := Vector.replicate 16 0
  i := 0
  pc := 0x0200
  sp := 0xFF
  stack := Vector.replicate 16 0
  dt := 0
  st := 0
  mem := []
  fb := Vector.replicate 32 (Vector.replicate 64 false)
  latch := FaultLatch.clear
  status := .ok
  keys := 0
  rnd := 0
  launched := false
  font := defaultFont
  turn := 0

/-- Why the model stops although the spec names no such stop. The faults the spec names are no constructors here: they
are next states with the latch written (spec/60_exceptions.md R245). -/
inductive Fault where
  /-- CALL or RET with an SP outside -1 to 15, which R27 says no run reaches and for which no rule says which stack
  entry is meant (log entry 4). SAFE: the model stops where the spec gives nothing. -/
  | illegalStackPointer
deriving DecidableEq, Repr

/-- An instruction without a meaning. -/
inductive Refusal where
  /-- Answered by `exec` alone, for an instruction that has no meaning yet. SAFE: nothing can be proved of it. No arm
  of this model answers it. -/
  | notModelled (mnemonic : String)
deriving DecidableEq, Repr

/-- What a step or an instruction answers. -/
abbrev Result := Host.Outcome State Fault Refusal

end Sys2Proof.Machine
end

