-- ==== Sys2Proof/Machine/Memory.lean ====
section
/-! DEFINITION. The one read and the one write of a memory cell, and the block forms made of them (spec/20_memory.md
R62, R64, R67). The range check is the caller's (R62, `Machine/Ops.lean`). -/

namespace Sys2Proof.Machine

/-- What a cell that is not listed reads as: its contents after a reset with the default font (spec/10_state.md R40: the
font, else zero). The cells of another font that differ are listed (log entry 8). -/
def unlisted (a : Nat) : Byte := fontData.getD a 0

/-- `MEM[a]` (spec/00_scope.md R11). -/
def Memory.read : Memory → Nat → Byte
  | [], a => unlisted a
  | (b, x) :: m, a => if a = b then x else Memory.read m a

/-- A cell put before the first cell of a higher address. -/
def Memory.insert : Memory → Nat → Byte → Memory
  | [], a, x => [(a, x)]
  | (b, y) :: m, a, x => if a < b then (a, x) :: (b, y) :: m else (b, y) :: Memory.insert m a x

/-- `MEM[a] ← x`: exactly one cell changes (spec/20_memory.md R67). A cell that comes to hold what it holds after reset
is not listed. -/
def Memory.write (m : Memory) (a : Nat) (x : Byte) : Memory :=
  let rest := m.filter (fun c => c.1 ≠ a)
  if x = unlisted a then rest else Memory.insert rest a x

/-- Ascending single-byte writes from `a` on (spec/20_memory.md R64). -/
def Memory.writeBytes (m : Memory) (a : Nat) : List Byte → Memory
  | [] => m
  | x :: xs => Memory.writeBytes (m.write a x) (a + 1) xs

/-- The canonical form from address `lo` on: addresses strictly rising and inside memory, no cell at its reset
contents. -/
def Memory.wfFrom : Nat → Memory → Bool
  | _, [] => true
  | lo, (a, x) :: m =>
    decide (lo ≤ a) && decide (a < Config.memSize) && (x != unlisted a) && Memory.wfFrom (a + 1) m

/-- The canonical form of memory. -/
def Memory.wf (m : Memory) : Bool := Memory.wfFrom 0 m

end Sys2Proof.Machine
end

