-- ==== Sys2Proof/Machine/Ops.lean ====
section
/-! DEFINITION. The named operations over registers, stack and memory, the ends of a step, and taking a fault as one
shared operation (spec/60_exceptions.md R245). There is no return from a fault (R249). -/

namespace Sys2Proof.Machine

/-- `V[x]` (spec/10_state.md R20). -/
def State.getV (s : State) (x : Nibble) : Byte := s.v[x.toNat]'x.isLt

/-- `V[x] ← b` (R20, R21; no register is hardwired). -/
def State.setV (s : State) (x : Nibble) (b : Byte) : State := { s with v := s.v.set x.toNat b x.isLt }

/-- `V[15]`, the flag register (R22). -/
def vf : Nibble := 0xF

/-- `I ← w` (R24). -/
def State.setI (s : State) (w : Word) : State := { s with i := w }

/-- `DT ← b` (R29). -/
def State.setDt (s : State) (b : Byte) : State := { s with dt := b }

/-- `ST ← b` (R30). -/
def State.setSt (s : State) (b : Byte) : State := { s with st := b }

/-- `MEM` replaced. -/
def State.setMem (s : State) (m : Memory) : State := { s with mem := m }

/-- `FB` replaced. -/
def State.setFb (s : State) (d : Display) : State := { s with fb := d }

/-- The end of a step with status OK and an explicit target (spec/44_control.md R210). -/
def State.jumpTo (s : State) (target : Word) : State := { s with pc := target, status := .ok }

/-- The end of a step with status OK and the default advance `PC ← (PC + 2) mod 65536` (R210;
spec/10_state.md R26). -/
def State.advance (s : State) : State := s.jumpTo (s.pc + 2)

/-- The end of a conditional skip: `PC + 4` when the condition holds, else `PC + 2` (R210). -/
def State.skipIf (s : State) (c : Bool) : State := s.jumpTo (if c then s.pc + 4 else s.pc + 2)

/-- `wait`: the end of a step with status WAIT_KEY; nothing else changes (spec/00_scope.md R11). -/
def State.waitForKey (s : State) : State := { s with status := .waitKey }

/-- `raise`: the end of a step with status FAULT. The latch is written with the cause, the opcode, PC and the address;
nothing else changes, PC included (spec/60_exceptions.md R245). -/
def State.takeFault (s : State) (c : Cause) (op : Word) (addr : FaultAddr) : State :=
  { s with latch := ⟨true, c, op, s.pc, addr⟩, status := .fault }

/-- `max(base, 0x1000)`, the lowest out-of-range address of an access from `base` on (spec/60_exceptions.md R244). -/
def firstBad (base : Word) : FaultAddr :=
  if base.toNat < 0x1000 then 0x1000 else base.setWidth 17

/-- The range check of an instruction that accesses `n` cells from `I` on: AddressOutOfRange if there is one and the
last is above 0xFFF, before anything is written; else the body (spec/41_index_memory.md R150 (c);
spec/42_display.md R172 for `n = 0`). Addresses are exact sums (spec/20_memory.md R68). -/
def State.withCells (s : State) (op : Word) (n : Nat) (body : State) : State :=
  if s.i.toNat + n ≤ Config.memSize ∨ n = 0 then body
  else s.takeFault .addressOutOfRange op (firstBad s.i)

/-- `STACK[SP] ← w` and PC to the target, after `SP ← SP + 1` gave `k` (spec/44_control.md R212). -/
def State.pushCall (s : State) (k : Byte) (h : k.toNat < 16) (ret target : Word) : State :=
  { s with sp := k, stack := s.stack.set k.toNat ret h, pc := target, status := .ok }

/-- `PC ← STACK[SP]` and `SP ← SP - 1`; the entry stays (spec/44_control.md R213; spec/10_state.md R28). -/
def State.popReturn (s : State) (h : s.sp.toNat < 16) : State :=
  { s with pc := s.stack[s.sp.toNat], sp := s.sp - 1, status := .ok }

/-- `V[0..k-1]` as bytes in ascending order (spec/20_memory.md R64). -/
def State.firstRegs (s : State) (k : Nat) : List Byte := s.v.toList.take k

/-- `V[j] ← MEM[base + j]` for j in 0 to k - 1, ascending (spec/41_index_memory.md R156). -/
def loadRegs (m : Memory) (base : Nat) : Nat → Vector Byte 16 → Vector Byte 16
  | 0, v => v
  | k + 1, v => (loadRegs m base k v).setIfInBounds k (m.read (base + k))

/-- `V` replaced by the block load of `k` registers. -/
def State.loadFirstRegs (s : State) (k : Nat) : State :=
  { s with v := loadRegs s.mem s.i.toNat k s.v }

end Sys2Proof.Machine
end

