-- ==== Sys2Proof/Machine/Operands.lean ====
section
/-! DEFINITION. The operand forms: immediates, effective addresses, digits, sprite coordinates and keys
(spec/30_encoding.md R92; spec/41_index_memory.md R150; spec/42_display.md R172; spec/43_keypad_timers.md R191,
R193). -/

namespace Sys2Proof.Machine

/-- `nnn` zero-extended to 16 bits (R92). -/
def addrWord (nnn : Addr) : Word := nnn.setWidth 16

/-- `nnn + V[0]`, an exact sum that fits 16 bits (spec/44_control.md R214). -/
def offsetTarget (nnn : Addr) (v0 : Byte) : Word := BitVec.ofNat 16 (nnn.toNat + v0.toNat)

/-- `(I + Vx) mod 65536` (spec/41_index_memory.md R152). -/
def indexSum (i : Word) (b : Byte) : Word := BitVec.ofNat 16 (i.toNat + b.toNat)

/-- `Vx * 5 + FONT_BASE`, on the whole of Vx (spec/41_index_memory.md R153; spec/90_conflicts.md C6). -/
def glyphAddr (b : Byte) : Word := BitVec.ofNat 16 (b.toNat * 5 + fontBase)

/-- The hundreds, tens and ones digit (spec/41_index_memory.md R154). -/
def bcdDigits (b : Byte) : List Byte :=
  [BitVec.ofNat 8 (b.toNat / 100), BitVec.ofNat 8 (b.toNat / 10 % 10), BitVec.ofNat 8 (b.toNat % 10)]

/-- `(Vx + c) mod 64`, the sum exact (spec/42_display.md R172, R174 (c)). -/
def spriteCol (vx : Byte) (c : Nat) : Fin 64 := ⟨(vx.toNat + c) % 64, Nat.mod_lt _ (by decide)⟩

/-- `(Vy + r) mod 32`, the sum exact (spec/42_display.md R172). -/
def spriteRow (vy : Byte) (r : Nat) : Fin 32 := ⟨(vy.toNat + r) % 32, Nat.mod_lt _ (by decide)⟩

/-- `KEYS[k]` (spec/10_state.md R34). -/
def keyDown (keys : Word) (k : Nat) : Bool := keys.getLsbD k

/-- The least of the indices below 16, from `k` on, whose key is down, 15 if none is (spec/43_keypad_timers.md R193). -/
def leastKeyFrom (keys : Word) : Nat → Nat → Nat
  | 0, k => k
  | fuel + 1, k => if keyDown keys k then k else leastKeyFrom keys fuel (k + 1)

/-- The least index whose key is down, for keys that are not all up (R193). -/
def leastKey (keys : Word) : Byte := BitVec.ofNat 8 (leastKeyFrom keys 15 0)

end Sys2Proof.Machine
end

