-- ==== Sys2Proof/Machine/Flags.lean ====
section
/-! DEFINITION. Every value VF receives, and the order of the two writes (spec/10_state.md R23; spec/40_alu.md R120,
R127 to R131). -/

namespace Sys2Proof.Machine

/-- A condition as VF holds it: 1 or 0. -/
def flagByte (c : Bool) : Byte := if c then 1 else 0

/-- The carry of the exact sum: 1 if it exceeds 255 (R127). -/
def carryFlag (a b : Byte) : Byte := flagByte (decide (a.toNat + b.toNat > 255))

/-- The strict comparison of SUB and SUBN: 1 if `a > b` (R128, R130). -/
def greaterFlag (a b : Byte) : Byte := flagByte (decide (a.toNat > b.toNat))

/-- The bit a right shift by one drops (R129). -/
def lowBitFlag (a : Byte) : Byte := flagByte (a.getLsbD 0)

/-- The bit a left shift by one drops (R131). -/
def highBitFlag (a : Byte) : Byte := flagByte (a.getLsbD 7)

/-- VF is written first and Vx second, so that with x = 15 the result stays (R120 (b)). -/
def State.setFlagged (s : State) (x : Nibble) (flag result : Byte) : State := (s.setV vf flag).setV x result

end Sys2Proof.Machine
end

