-- ==== Sys2Proof/Machine/Alu.lean ====
section
/-! DEFINITION. The register and ALU instructions (spec/40_alu.md R120 to R133). None can fault. -/

namespace Sys2Proof.Machine

/-- 6xkk LD Vx, kk (R121). -/
def execLdImm (x : Nibble) (kk : Byte) (s : State) : Result := .next (s.setV x kk).advance

/-- 7xkk ADD Vx, kk (R122): VF is not written. -/
def execAddImm (x : Nibble) (kk : Byte) (s : State) : Result := .next (s.setV x (s.getV x + kk)).advance

/-- 8xy0 LD Vx, Vy (R123). -/
def execLdReg (x y : Nibble) (s : State) : Result := .next (s.setV x (s.getV y)).advance

/-- 8xy1 OR Vx, Vy (R124): VF is not written. -/
def execOrReg (x y : Nibble) (s : State) : Result := .next (s.setV x (s.getV x ||| s.getV y)).advance

/-- 8xy2 AND Vx, Vy (R125): VF is not written. -/
def execAndReg (x y : Nibble) (s : State) : Result := .next (s.setV x (s.getV x &&& s.getV y)).advance

/-- 8xy3 XOR Vx, Vy (R126): VF is not written. -/
def execXorReg (x y : Nibble) (s : State) : Result := .next (s.setV x (s.getV x ^^^ s.getV y)).advance

/-- 8xy4 ADD Vx, Vy (R127). -/
def execAddReg (x y : Nibble) (s : State) : Result :=
  .next (s.setFlagged x (carryFlag (s.getV x) (s.getV y)) (s.getV x + s.getV y)).advance

/-- 8xy5 SUB Vx, Vy (R128). -/
def execSubReg (x y : Nibble) (s : State) : Result :=
  .next (s.setFlagged x (greaterFlag (s.getV x) (s.getV y)) (s.getV x - s.getV y)).advance

/-- 8xy6 SHR Vx (R129): `y` is ignored. -/
def execShr (x _y : Nibble) (s : State) : Result :=
  .next (s.setFlagged x (lowBitFlag (s.getV x)) (s.getV x >>> 1)).advance

/-- 8xy7 SUBN Vx, Vy (R130). -/
def execSubnReg (x y : Nibble) (s : State) : Result :=
  .next (s.setFlagged x (greaterFlag (s.getV y) (s.getV x)) (s.getV y - s.getV x)).advance

/-- 8xyE SHL Vx (R131): `y` is ignored. -/
def execShl (x _y : Nibble) (s : State) : Result :=
  .next (s.setFlagged x (highBitFlag (s.getV x)) (s.getV x <<< 1)).advance

/-- Cxkk RND Vx, kk (R133): the step's random input is the port `rnd`. -/
def execRnd (x : Nibble) (kk : Byte) (s : State) : Result := .next (s.setV x (s.rnd &&& kk)).advance

end Sys2Proof.Machine
end

