-- ==== Sys2Proof/Machine/Control.lean ====
section
/-! DEFINITION. Control transfer and SYS (spec/44_control.md R210 to R219). A target is not checked when it is set
(R210). -/

namespace Sys2Proof.Machine

/-- 1nnn JP nnn (R211). -/
def execJp (nnn : Addr) (s : State) : Result := .next (s.jumpTo (addrWord nnn))

/-- 2nnn CALL nnn (R212): StackOverflow at SP = 15; an SP that R27 says no run reaches is the model's own fault. -/
def execCall (nnn : Addr) (s : State) : Result :=
  if s.sp = 15 then .next (s.takeFault .stackOverflow (encode (.call nnn)) 0)
  else if h : (s.sp + 1).toNat < 16 then .next (s.pushCall (s.sp + 1) h (s.pc + 2) (addrWord nnn))
  else .fault .illegalStackPointer

/-- 00EE RET (R213): StackUnderflow at SP = -1; an SP that R27 says no run reaches is the model's own fault. -/
def execRet (s : State) : Result :=
  if s.sp = 0xFF then .next (s.takeFault .stackUnderflow (encode .ret) 0)
  else if h : s.sp.toNat < 16 then .next (s.popReturn h)
  else .fault .illegalStackPointer

/-- Bnnn JP V0, nnn (R214). -/
def execJpV0 (nnn : Addr) (s : State) : Result := .next (s.jumpTo (offsetTarget nnn (s.getV 0)))

/-- 3xkk SE Vx, kk (R215). -/
def execSeImm (x : Nibble) (kk : Byte) (s : State) : Result := .next (s.skipIf (s.getV x == kk))

/-- 4xkk SNE Vx, kk (R216). -/
def execSneImm (x : Nibble) (kk : Byte) (s : State) : Result := .next (s.skipIf (s.getV x != kk))

/-- 5xy0 SE Vx, Vy (R217): the low nibble is ignored. -/
def execSeReg (x y _z : Nibble) (s : State) : Result := .next (s.skipIf (s.getV x == s.getV y))

/-- 9xy0 SNE Vx, Vy (R218): the low nibble is ignored. -/
def execSneReg (x y _z : Nibble) (s : State) : Result := .next (s.skipIf (s.getV x != s.getV y))

/-- 0nnn SYS (R219): nothing but the advance. -/
def execSys (_nnn : Addr) (s : State) : Result := .next s.advance

end Sys2Proof.Machine
end

