-- ==== Sys2Proof/Machine/Blitter.lean ====
section
/-! DEFINITION. The sprite blitter: the loops of spec/42_display.md R172 over the framebuffer and VF. -/

namespace Sys2Proof.Machine

/-- `FB[row][col]` (spec/10_state.md R35). -/
def Display.get (d : Display) (row : Fin 32) (col : Fin 64) : Bool := d[row][col]

/-- `FB[row][col] ← p`. -/
def Display.put (d : Display) (row : Fin 32) (col : Fin 64) (p : Bool) : Display :=
  d.set row (d[row].set col p)

/-- All pixels dark (spec/42_display.md R171). -/
def Display.blank : Display := Vector.replicate 32 (Vector.replicate 64 false)

/-- What a draw changes: the framebuffer and VF. -/
structure Canvas where
  fb : Display
  flag : Byte
deriving DecidableEq, Repr

/-- One sprite bit: VF is 1 if a lit pixel goes dark, else 0, and the pixel is XORed (R172). -/
def Canvas.plot (k : Canvas) (row : Fin 32) (col : Fin 64) (bit : Bool) : Canvas :=
  { flag := flagByte (Display.get k.fb row col && bit)
    fb := Display.put k.fb row col (Display.get k.fb row col ^^ bit) }

/-- The first `c` columns of sprite row `r`, most significant bit first (R172). -/
def Canvas.plotCols (k : Canvas) (vx vy : Byte) (r : Nat) (b : Byte) : Nat → Canvas
  | 0 => k
  | c + 1 => (k.plotCols vx vy r b c).plot (spriteRow vy r) (spriteCol vx c) (b.getLsbD (7 - c))

/-- The first `n` sprite rows, ascending; row `r` is the byte at `base + r` (R172). -/
def Canvas.plotRows (k : Canvas) (m : Memory) (base : Nat) (vx vy : Byte) : Nat → Canvas
  | 0 => k
  | r + 1 => (k.plotRows m base vx vy r).plotCols vx vy r (m.read (base + r)) 8

/-- The whole draw of `n` rows: the coordinates are the values held when the step began, and for n = 0 VF is as it was
(R172, R174). -/
def State.drawSprite (s : State) (vx vy : Byte) (n : Nat) : State :=
  let k := (Canvas.mk s.fb (s.getV vf)).plotRows s.mem s.i.toNat vx vy n
  (s.setFb k.fb).setV vf k.flag

end Sys2Proof.Machine
end

