-- ==== Sys2Proof/Machine/DisplayOps.lean ====
section
/-! DEFINITION. The display instructions (spec/42_display.md R170 to R174). -/

namespace Sys2Proof.Machine

/-- 00E0 CLS (R171). -/
def execCls (s : State) : Result := .next (s.setFb Display.blank).advance

/-- Dxyn DRW Vx, Vy, n (R172): AddressOutOfRange if n > 0 and I + n - 1 is above 0xFFF. -/
def execDrw (x y n : Nibble) (s : State) : Result :=
  .next (s.withCells (encode (.drw x y n)) n.toNat (s.drawSprite (s.getV x) (s.getV y) n.toNat).advance)

end Sys2Proof.Machine
end

