-- ==== Sys2Proof/Machine/IndexMemory.lean ====
section
/-! DEFINITION. The index-register and memory instructions (spec/41_index_memory.md R150 to R156). -/

namespace Sys2Proof.Machine

/-- Annn LD I, nnn (R151). -/
def execLdI (nnn : Addr) (s : State) : Result := .next (s.setI (addrWord nnn)).advance

/-- Fx1E ADD I, Vx (R152): no access, so no fault, and VF is not written. -/
def execAddI (x : Nibble) (s : State) : Result := .next (s.setI (indexSum s.i (s.getV x))).advance

/-- Fx29 LD F, Vx (R153). -/
def execLdF (x : Nibble) (s : State) : Result := .next (s.setI (glyphAddr (s.getV x))).advance

/-- Fx33 LD B, Vx (R154): three digits at I, I + 1, I + 2. -/
def execLdB (x : Nibble) (s : State) : Result :=
  .next (s.withCells (encode (.ldB x)) 3 (s.setMem (s.mem.writeBytes s.i.toNat (bcdDigits (s.getV x)))).advance)

/-- Fx55 LD [I], Vx (R155): V[0] to V[x] at I to I + x; I is unchanged. -/
def execStRegs (x : Nibble) (s : State) : Result :=
  .next (s.withCells (encode (.stRegs x)) (x.toNat + 1)
    (s.setMem (s.mem.writeBytes s.i.toNat (s.firstRegs (x.toNat + 1)))).advance)

/-- Fx65 LD Vx, [I] (R156): V[0] to V[x] from I to I + x; I is unchanged. -/
def execLdRegs (x : Nibble) (s : State) : Result :=
  .next (s.withCells (encode (.ldRegs x)) (x.toNat + 1) (s.loadFirstRegs (x.toNat + 1)).advance)

end Sys2Proof.Machine
end

