-- ==== Sys2Proof/Machine/KeypadTimers.lean ====
section
/-! DEFINITION. The keypad and timer instructions (spec/43_keypad_timers.md R190 to R196). -/

namespace Sys2Proof.Machine

/-- The key check of SKP and SKNP: KeyIndexOutOfRange when the index is above 15, else the skip (R191, R192;
spec/60_exceptions.md R246). -/
def State.skipOnKey (s : State) (op : Word) (k : Byte) (down : Bool) : State :=
  if k.toNat > 15 then s.takeFault .keyIndexOutOfRange op 0
  else s.skipIf (keyDown s.keys k.toNat == down)

/-- Ex9E SKP Vx (R191). -/
def execSkp (x : Nibble) (s : State) : Result := .next (s.skipOnKey (encode (.skp x)) (s.getV x) true)

/-- ExA1 SKNP Vx (R192). -/
def execSknp (x : Nibble) (s : State) : Result := .next (s.skipOnKey (encode (.sknp x)) (s.getV x) false)

/-- Fx0A LD Vx, K (R193): with no key down the step ends with WAIT_KEY and PC stays. -/
def execLdVxK (x : Nibble) (s : State) : Result :=
  .next (if s.keys = 0 then s.waitForKey else (s.setV x (leastKey s.keys)).advance)

/-- Fx07 LD Vx, DT (R194). -/
def execLdVxDt (x : Nibble) (s : State) : Result := .next (s.setV x s.dt).advance

/-- Fx15 LD DT, Vx (R195). -/
def execLdDtVx (x : Nibble) (s : State) : Result := .next (s.setDt (s.getV x)).advance

/-- Fx18 LD ST, Vx (R196). -/
def execLdStVx (x : Nibble) (s : State) : Result := .next (s.setSt (s.getV x)).advance

end Sys2Proof.Machine
end

