-- ==== Sys2Proof/Machine/Engine.lean ====
section
/-! DEFINITION. The step of CORE (spec/60_exceptions.md R262): the halted check, the fetch, the decode, and the execute
phase, in the order of R247. -/

namespace Sys2Proof.Machine

/-- The opcode at PC, none if PC or PC + 1 is above 0xFFF (spec/20_memory.md R63; any alignment, R65). -/
def fetch (s : State) : Option Word :=
  if s.pc.toNat > 0xFFE then none
  else some (wordOfBytes (s.mem.read s.pc.toNat) (s.mem.read (s.pc.toNat + 1)))

/-- The first step closes the loader's port (spec/60_exceptions.md R260; log entry 6). -/
def State.launch (s : State) : State := { s with launched := true }

/-- The phases of a step of a core that is not halted (R262). -/
def fetchDecodeExecute (s : State) : Result :=
  match fetch s with
  | none => .next (s.takeFault .addressOutOfRange 0 (firstBad s.pc))
  | some op =>
    match decodeWord op with
    | .error _ => .next (s.takeFault .invalidOpcode op 0)
    | .ok i => exec i s

/-- One step with the inputs as they stand on the ports `keys` and `rnd` (R262). While halted it does nothing and
answers FAULT (R248). -/
def coreStep (s : State) : Result :=
  if s.latch.halted then .next { s with status := .fault }
  else fetchDecodeExecute s.launch

end Sys2Proof.Machine
end

