-- ==== Sys2Proof/Machine/Driver.lean ====
section
/-! DEFINITION. The agents outside CORE (spec/00_scope.md R16; spec/60_exceptions.md R255, R260, R263): the tick, the
keypad, the random source, the loader and reset, each as an action on the state between steps, and the free turn of the
driver that comes before a step of `Machine/Step.lean`. -/

namespace Sys2Proof.Machine

/-- One tick of a timer: a saturating decrement (R255). -/
def tick (t : Byte) : Byte := if t = 0 then 0 else t - 1

/-- `n` ticks of a timer (R255). -/
def ticks (n : Nat) (t : Byte) : Byte := if t = 0 then 0 else BitVec.ofNat 8 (t.toNat - n)

/-- The port `tick_dt` (R260). -/
def State.tickDt (s : State) : State := s.setDt (tick s.dt)

/-- The port `tick_st` (R260). -/
def State.tickSt (s : State) : State := s.setSt (tick s.st)

/-- The port `keys` takes new levels (R260). -/
def State.driveKeys (s : State) (k : Word) : State := { s with keys := k }

/-- The port `rnd` takes a new byte (R260). -/
def State.driveRnd (s : State) (r : Byte) : State := { s with rnd := r }

/-- The loader's port: one byte of memory, honoured only between reset and the first step (R260). -/
def State.loadByte (s : State) (a : Addr) (b : Byte) : State :=
  if s.launched then s else s.setMem (s.mem.write a.toNat b)

/-- Reset of a machine with any `FONT_DATA` (spec/10_state.md R33, R40; `State.reset` has the default). -/
def State.resetWith (font : Font) : State :=
  { State.reset with font := font, mem := Memory.writeBytes [] fontBase font.toList }

/-- The port `reset` (spec/70_reset_and_hazards.md R280): the state of R40 with the machine's own `FONT_DATA`; the input
ports stay the driver's (log entry 10). -/
def State.assertReset (s : State) : State :=
  { State.resetWith s.font with keys := s.keys, rnd := s.rnd, turn := s.turn }

/-- Everything an agent can do to the state: CORE's step, or an action between two steps (spec/00_scope.md R16). -/
inductive Event where
  | step
  | tickDt
  | tickSt
  | driveKeys (k : Word)
  | driveRnd (r : Byte)
  | loadByte (a : Addr) (b : Byte)
  | assertReset
deriving DecidableEq, Repr

/-- The effect of one event. -/
def Event.apply : Event → State → Result
  | .step, s => coreStep s
  | .tickDt, s => .next s.tickDt
  | .tickSt, s => .next s.tickSt
  | .driveKeys k, s => .next (s.driveKeys k)
  | .driveRnd r, s => .next (s.driveRnd r)
  | .loadByte a b, s => .next (s.loadByte a b)
  | .assertReset, s => .next s.assertReset

/-- A run of freely interleaved events (spec/00_scope.md R16; spec/70_reset_and_hazards.md R288), ending early at a stop
of the model's own. -/
def runEvents : List Event → State → Result
  | [], s => .next s
  | e :: es, s =>
    match e.apply s with
    | .next t => runEvents es t
    | .fault f => .fault f
    | .refused r => .refused r

/-- The driver's free turn before a step: any key levels, any random byte, any number of ticks (R263; log entry 1). -/
def State.driverTurn (s : State) : State :=
  { s with
    keys := Config.keys s.turn
    rnd := Config.rnd s.turn
    dt := ticks (Config.dtTicks s.turn) s.dt
    st := ticks (Config.stTicks s.turn) s.st
    turn := s.turn + 1 }

/-- The ROM load (spec/70_reset_and_hazards.md R283): none for an image the launch is not defined for, or after the
first step. -/
def State.loadRom (s : State) (rom : List Byte) : Option State :=
  if s.launched ∨ rom.length > Config.romMax then none
  else some (s.setMem (s.mem.writeBytes Config.progBase rom))

/-- The launch state of a machine with any `FONT_DATA` (R284). -/
def launchState (font : Font) (rom : List Byte) : Option State := (State.resetWith font).loadRom rom

/-- A state whose next step fetches: not halted, and PC where two bytes can be read. -/
def State.fetchable (s : State) : State :=
  { s with
    latch := if s.latch.halted then FaultLatch.clear else s.latch
    pc := if s.pc.toNat > 0xFFE then 0x0200 else s.pc }

/-- The state with the opcode `op` stored at PC, high byte first (spec/20_memory.md R63). -/
def State.placeOpcode (s : State) (op : Word) : State :=
  let t := s.fetchable
  t.setMem (t.mem.writeBytes t.pc.toNat [op.extractLsb' 8 8, op.extractLsb' 0 8])

end Sys2Proof.Machine
end

