-- ==== Sys2Proof/Machine/Step.lean ====
section
/-! DEFINITION. The host's step: the driver's free turn, then the step of CORE (spec/60_exceptions.md R262, R263). -/

namespace Sys2Proof.Machine

/-- The driver sets the inputs and ticks the timers as it likes, then CORE takes one step (log entry 1). -/
def step (s : State) : Host.Outcome State Fault Refusal := coreStep s.driverTurn

/-- The state with the instruction of the given table bits stored where `step` fetches its next instruction. It stands
for the loader (log entry 9). -/
def State.withFetchWord (s : State) (nbits w : Nat) : State := s.placeOpcode (tableWord nbits w)

end Sys2Proof.Machine
end

