-- ==== Sys2Proof/Machine/Ports.lean ====
section
/-! DEFINITION. The output ports as bits (spec/60_exceptions.md R261). -/

namespace Sys2Proof.Machine

/-- The code of `status` (R261). -/
def Status.code : Status → BitVec 2
  | .ok => 0
  | .waitKey => 1
  | .fault => 2

/-- The code of `CAUSE` (R240). -/
def Cause.code : Cause → BitVec 3
  | .none => 0
  | .invalidOpcode => 1
  | .stackOverflow => 2
  | .stackUnderflow => 3
  | .addressOutOfRange => 4
  | .keyIndexOutOfRange => 5

/-- The port `fb`: pixel (row, col) at bit row * 64 + col (R261; spec/10_state.md R35). -/
def fbPort (d : Display) : BitVec 2048 :=
  BitVec.ofFnLE (fun k : Fin 2048 =>
    Display.get d ⟨k.val / 64, Nat.div_lt_of_lt_mul k.isLt⟩ ⟨k.val % 64, Nat.mod_lt _ (by decide)⟩)

/-- The output ports (R261). -/
structure Outputs where
  status : BitVec 2
  fb : BitVec 2048
  dt : Byte
  st : Byte
  halted : BitVec 1
  cause : BitVec 3
  faultOp : Word
  faultPc : Word
  faultAddr : FaultAddr
deriving DecidableEq, Repr

/-- What the driver sees of a state; no other state is visible outside (R261). -/
def outputs (s : State) : Outputs where
  status := s.status.code
  fb := fbPort s.fb
  dt := s.dt
  st := s.st
  halted := BitVec.ofBool s.latch.halted
  cause := s.latch.cause.code
  faultOp := s.latch.op
  faultPc := s.latch.pc
  faultAddr := s.latch.addr

end Sys2Proof.Machine
end

