-- ==== Sys2Proof/Safety.lean ====
section
/-! DEFINITION. The terms claims are stated in: which part of the state is kept, what a completed instruction and a
raised fault are, the tables the spec's whole-machine rules give, and the invariant of the machine. -/

namespace Sys2Proof.Safety

open Sys2Proof.Machine

/-- The parts of the state a frame speaks of (spec/10_state.md). PC and the status port are not among them: every
statement says of these two what they become. -/
inductive Part where
  | registers
  | index
  | sp
  | stack
  | dt
  | st
  | memory
  | display
  | latch
  | font
  | inputs
deriving DecidableEq, Repr

/-- A part is the same in both states; memory cell by cell, the display pixel by pixel. `font` is the machine's parameter, `inputs` are the two input
ports, whether a step was taken, and the driver's turn. -/
def Part.kept (p : Part) (s t : State) : Prop :=
  match p with
  | .registers => ∀ z : Nibble, t.getV z = s.getV z
  | .index => t.i = s.i
  | .sp => t.sp = s.sp
  | .stack => t.stack = s.stack
  | .dt => t.dt = s.dt
  | .st => t.st = s.st
  | .memory => ∀ a : Nat, t.mem.read a = s.mem.read a
  | .display => ∀ (row : Fin 32) (col : Fin 64), Display.get t.fb row col = Display.get s.fb row col
  | .latch => t.latch = s.latch
  | .font => t.font = s.font
  | .inputs => t.keys = s.keys ∧ t.rnd = s.rnd ∧ t.launched = s.launched ∧ t.turn = s.turn

/-- Every part but the named ones is kept. -/
def KeepsAllBut (ps : List Part) (s t : State) : Prop := ∀ p : Part, p ∉ ps → p.kept s t

/-- The instruction completes with the default advance, Vx is `val`, and no other register and no other part
changes. -/
def SetsRegister (i : Instr) (x : Nibble) (val : State → Byte) : Prop :=
  ∀ s : State, ∃ t : State, exec i s = .next t ∧ t.status = .ok ∧ t.pc = s.pc + 2 ∧
    t.getV x = val s ∧ (∀ z : Nibble, z ≠ x → t.getV z = s.getV z) ∧ KeepsAllBut [.registers] s t

/-- The instruction completes with the default advance, Vx is `val`, VF is 1 or 0 by `flag` unless Vx is VF, and no
other register and no other part changes. -/
def SetsRegisterAndFlag (i : Instr) (x : Nibble) (val : State → Byte) (flag : State → Prop) : Prop :=
  ∀ s : State, ∃ t : State, exec i s = .next t ∧ t.status = .ok ∧ t.pc = s.pc + 2 ∧
    t.getV x = val s ∧ (x ≠ 15 → (flag s → t.getV 15 = 1) ∧ (¬ flag s → t.getV 15 = 0)) ∧
    (∀ z : Nibble, z ≠ x → z ≠ 15 → t.getV z = s.getV z) ∧ KeepsAllBut [.registers] s t

/-- The instruction completes with the default advance, I is `val`, and no other part changes. -/
def SetsIndex (i : Instr) (val : State → Word) : Prop :=
  ∀ s : State, ∃ t : State, exec i s = .next t ∧ t.status = .ok ∧ t.pc = s.pc + 2 ∧
    t.i = val s ∧ KeepsAllBut [.index] s t

/-- The instruction completes with PC at `target` and changes no part. -/
def MovesPcOnly (i : Instr) (target : State → Word) : Prop :=
  ∀ s : State, ∃ t : State, exec i s = .next t ∧ t.status = .ok ∧ t.pc = target s ∧ KeepsAllBut [] s t

/-- `t` is `s` with the fault raised: the latch written and status FAULT, nothing else (spec/60_exceptions.md R245). -/
def Raised (c : Cause) (op : Word) (addr : FaultAddr) (s t : State) : Prop :=
  t = { s with latch := { halted := true, cause := c, op := op, pc := s.pc, addr := addr }, status := .fault }

/-- A step of CORE from `s` raised the fault: the latch written and status FAULT, and no part of the state changed but the
latch (spec/60_exceptions.md R245). -/
def StepRaised (c : Cause) (op : Word) (addr : FaultAddr) (s t : State) : Prop :=
  t.latch = { halted := true, cause := c, op := op, pc := s.pc, addr := addr } ∧ t.status = .fault ∧ t.pc = s.pc ∧
    KeepsAllBut [.latch, .inputs] s t ∧ t.keys = s.keys ∧ t.rnd = s.rnd

/-- `max(base, 0x1000)`, the FAULT_ADDR of an access from `base` on (spec/60_exceptions.md R244). -/
def lowestBad (base : Word) : FaultAddr := BitVec.ofNat 17 (max base.toNat 0x1000)

/-- The two bytes at PC as one opcode, the byte at PC the more significant (spec/20_memory.md R63). -/
def opcodeAtPc (s : State) : Word :=
  BitVec.ofNat 16 ((s.mem.read s.pc.toNat).toNat * 256 + (s.mem.read (s.pc.toNat + 1)).toNat)

/-- SP has one of its legal values, -1 and 0 to 15 (spec/10_state.md R27). -/
abbrev SpLegal (s : State) : Prop := s.sp = 0xFF ∨ s.sp.toNat ≤ 15

/-- A result with its next state changed and a stop kept. -/
def mapNext (f : State → State) : Result → Result
  | .next t => .next (f t)
  | .fault e => .fault e
  | .refused r => .refused r

/-- New PC of an instruction that ends OK (the table of spec/44_control.md R210, with the conditions of R191, R192 and
R215 to R218). -/
def policyPc (i : Instr) (s : State) : Word :=
  match i with
  | .jp nnn => BitVec.ofNat 16 nnn.toNat
  | .call nnn => BitVec.ofNat 16 nnn.toNat
  | .ret => s.stack.toList.getD s.sp.toNat 0
  | .jpV0 nnn => BitVec.ofNat 16 (nnn.toNat + (s.getV 0).toNat)
  | .seImm x kk => if s.getV x = kk then s.pc + 4 else s.pc + 2
  | .sneImm x kk => if s.getV x ≠ kk then s.pc + 4 else s.pc + 2
  | .seReg x y _ => if s.getV x = s.getV y then s.pc + 4 else s.pc + 2
  | .sneReg x y _ => if s.getV x ≠ s.getV y then s.pc + 4 else s.pc + 2
  | .skp x => if s.keys.getLsbD (s.getV x).toNat = true then s.pc + 4 else s.pc + 2
  | .sknp x => if s.keys.getLsbD (s.getV x).toNat = false then s.pc + 4 else s.pc + 2
  | _ => s.pc + 2

/-- The fault the execute phase of an instruction raises, none if none (the table of spec/60_exceptions.md R240 with the
conditions of R242 to R246). -/
def executeCause (i : Instr) (s : State) : Cause :=
  match i with
  | .call _ => if s.sp = 15 then .stackOverflow else .none
  | .ret => if s.sp = 0xFF then .stackUnderflow else .none
  | .ldB _ => if s.i.toNat + 2 > 0xFFF then .addressOutOfRange else .none
  | .stRegs x => if s.i.toNat + x.toNat > 0xFFF then .addressOutOfRange else .none
  | .ldRegs x => if s.i.toNat + x.toNat > 0xFFF then .addressOutOfRange else .none
  | .drw _ _ n => if n.toNat > 0 ∧ s.i.toNat + n.toNat - 1 > 0xFFF then .addressOutOfRange else .none
  | .skp x => if (s.getV x).toNat > 15 then .keyIndexOutOfRange else .none
  | .sknp x => if (s.getV x).toNat > 15 then .keyIndexOutOfRange else .none
  | _ => .none

/-- Which parts an instruction may change: V (spec/10_state.md R20), I (R24), SP and STACK (R27, R28), DT (R29), ST
(R30), MEM (spec/20_memory.md R66), FB (R35), the latch (spec/60_exceptions.md R240). KEYS and the other inputs are
written by none (R34), and the font is fixed (R33). -/
def partsWritten : Instr → List Part
  | .cls => [.display]
  | .ret => [.sp, .latch]
  | .sys _ => []
  | .jp _ => []
  | .call _ => [.sp, .stack, .latch]
  | .seImm _ _ => []
  | .sneImm _ _ => []
  | .seReg _ _ _ => []
  | .ldImm _ _ => [.registers]
  | .addImm _ _ => [.registers]
  | .ldReg _ _ => [.registers]
  | .orReg _ _ => [.registers]
  | .andReg _ _ => [.registers]
  | .xorReg _ _ => [.registers]
  | .addReg _ _ => [.registers]
  | .subReg _ _ => [.registers]
  | .shr _ _ => [.registers]
  | .subnReg _ _ => [.registers]
  | .shl _ _ => [.registers]
  | .sneReg _ _ _ => []
  | .ldI _ => [.index]
  | .jpV0 _ => []
  | .rnd _ _ => [.registers]
  | .drw _ _ _ => [.registers, .display, .latch]
  | .skp _ => [.latch]
  | .sknp _ => [.latch]
  | .ldVxDt _ => [.registers]
  | .ldVxK _ => [.registers]
  | .ldDtVx _ => [.dt]
  | .ldStVx _ => [.st]
  | .addI _ => [.index]
  | .ldF _ => [.index]
  | .ldB _ => [.memory, .latch]
  | .stRegs _ => [.memory, .latch]
  | .ldRegs _ => [.registers, .latch]

/-- The instruction writes VF as a side effect (the table of spec/10_state.md R23). -/
def writesFlag : Instr → Bool
  | .addReg _ _ | .subReg _ _ | .shr _ _ | .subnReg _ _ | .shl _ _ | .drw _ _ _ => true
  | _ => false

/-- The instruction names VF as its destination Vx, or reaches it by a block load (spec/10_state.md R23). -/
def destinationIsFlag : Instr → Bool
  | .ldImm x _ | .addImm x _ | .ldReg x _ | .orReg x _ | .andReg x _ | .xorReg x _ | .rnd x _ | .ldVxDt x
  | .ldVxK x | .ldRegs x => x == 15
  | _ => false

/-- "The program has finished": PC is `a` and the word at `a` is `JP a` (spec/70_reset_and_hazards.md R289). -/
def Finished (s : State) : Prop :=
  s.pc.toNat ≤ 0xFFE ∧ decodeWord (opcodeAtPc s) = .ok (.jp (BitVec.ofNat 12 s.pc.toNat))

/-- The latch and the status port agree, and the latch holds what a fault writes: while not halted every field is 0;
while halted a cause, PC, and an address above 0xFFF for cause 4 alone (spec/10_state.md R37;
spec/60_exceptions.md R240, R245). -/
abbrev LatchConsistent (s : State) : Prop :=
  (s.status = .fault ↔ s.latch.halted = true) ∧
  (s.latch.halted = false → s.latch = FaultLatch.clear) ∧
  (s.latch.halted = true → s.latch.cause ≠ .none ∧ s.latch.pc = s.pc ∧
    (s.latch.cause = .addressOutOfRange → 0x1000 ≤ s.latch.addr.toNat) ∧
    (s.latch.cause ≠ .addressOutOfRange → s.latch.addr = 0))

/-- PC and the return addresses stay as low as the control transfers leave them: no target is above 0x10FE
(spec/44_control.md R214), and a return address is at most 0x1000, as the CALL was fetched (spec/10_state.md R26). -/
abbrev TargetsBounded (s : State) : Prop :=
  s.pc.toNat ≤ 0x10FE ∧ ∀ w ∈ s.stack.toList, w.toNat ≤ 0x1000

/-- The invariant of the machine. -/
structure Inv (s : State) : Prop where
  /-- Memory keeps its canonical form. -/
  mem : s.mem.wf = true
  /-- SP is -1 to 15 (spec/10_state.md R27, R38). -/
  sp : SpLegal s
  /-- The latch is consistent. -/
  latch : LatchConsistent s
  /-- Targets are bounded. -/
  targets : TargetsBounded s

end Sys2Proof.Safety
end

