-- ==== Sys2Proof/Certificates/Slice0/Obligations.lean ====
section
/-! DEFINITION. The statements for the provers, one per rule or group of rules of spec/. Where a statement rests on a choice of
the model its docstring says so and names the log entry. -/

open Sys2Proof
open Sys2Proof.Machine
open Sys2Proof.Safety

/-! ## Encoding -/

/-- spec/30_encoding.md R91, R93, R98: the decoder reads back every field of every encoded instruction. That the term keeps
the fields an instruction ignores is the model's choice (log entry 12). -/
def Obligations.DecodeOfEncode : Prop :=
  ∀ i : Instr, i.wellFormed = true → decodeWord (encode i) = .ok i

/-- spec/30_encoding.md R97, R98: a word that decodes is the word of its term, so no two words share a term and no bit is
dropped. That the words 5xyz, 9xyz, 8xy6, 8xyE and 0nnn have terms of their own is the model's choice (log entry 12: the
term keeps the fields the instruction ignores). By R96 and R100 such words are aliases: they share a meaning, not a term. -/
def Obligations.EncodeOfDecode : Prop :=
  ∀ (w : Word) (i : Instr), decodeWord w = .ok i → encode i = w ∧ i.wellFormed = true

/-- spec/30_encoding.md R98: the decoder gives a word to the first row of the 35 whose mask and match it fits, and to none if
it fits none. -/
def Obligations.DecodeTakesFirstFittingRow : Prop :=
  opRows.length = 35 ∧
  ∀ w : Word, (match decodeWord w with | .ok i => some i.row | .error _ => none) = opRows.findIdx? (fun r => r.fits w)

/-- spec/30_encoding.md R99: the invalid words are exactly the three classes (which the spec derives from R94 and R98). -/
def Obligations.InvalidWordsAreTheThreeClasses : Prop :=
  ∀ w : Word, (∃ e, decodeWord w = .error e) ↔
    (opTop w = 0x8 ∧ opN w ∈ ([0x8, 0x9, 0xA, 0xB, 0xC, 0xD, 0xF] : List Nibble)) ∨
    (opTop w = 0xE ∧ opKk w ∉ ([0x9E, 0xA1] : List Byte)) ∨
    (opTop w = 0xF ∧ opKk w ∉ ([0x07, 0x0A, 0x15, 0x18, 0x1E, 0x29, 0x33, 0x55, 0x65] : List Byte))

/-- spec/95_test_vectors.md, T-DEC-2 to T-DEC-14: words written out in the spec decode to what it says (a sanity
statement; that the terms keep the ignored fields is log entry 12). -/
def Obligations.SpecWordsDecode : Prop :=
  decodeWord 0x00E0 = .ok .cls ∧ decodeWord 0x00EE = .ok .ret ∧ decodeWord 0x00E1 = .ok (.sys 0x0E1) ∧
  decodeWord 0x8AB4 = .ok (.addReg 10 11) ∧ decodeWord 0x8ABE = .ok (.shl 10 11) ∧
  decodeWord 0x5127 = .ok (.seReg 1 2 7) ∧ decodeWord 0xEFA1 = .ok (.sknp 15) ∧
  decodeWord 0xD000 = .ok (.drw 0 0 0) ∧ decodeWord (wordOfBytes 0x12 0x34) = .ok (.jp 0x234) ∧
  decodeWord 0xFFFF = .error (.invalidFGroup 0xFFFF)

/-! ## Register and ALU instructions -/

/-- spec/40_alu.md R121 and R123: the two register loads (which the spec supplies by its decision D24). -/
def Obligations.LoadsSetOneRegister : Prop :=
  (∀ (x : Nibble) (kk : Byte), decodeWord (formatXK 0x6 x kk) = .ok (.ldImm x kk) ∧
    SetsRegister (.ldImm x kk) x (fun _ => kk)) ∧
  (∀ x y : Nibble, decodeWord (formatXYN 0x8 x y 0x0) = .ok (.ldReg x y) ∧
    SetsRegister (.ldReg x y) x (fun s => s.getV y))

/-- spec/40_alu.md R122: the immediate add wraps and leaves VF alone, unless VF is the destination. -/
def Obligations.ImmediateAddWraps : Prop :=
  ∀ (x : Nibble) (kk : Byte), decodeWord (formatXK 0x7 x kk) = .ok (.addImm x kk) ∧
    SetsRegister (.addImm x kk) x (fun s => BitVec.ofNat 8 ((s.getV x).toNat + kk.toNat))

/-- spec/40_alu.md R124, R125, R126: the bitwise instructions, bit by bit, with VF untouched. -/
def Obligations.LogicLeavesFlag : Prop :=
  ∀ x y : Nibble,
    decodeWord (formatXYN 0x8 x y 0x1) = .ok (.orReg x y) ∧
    decodeWord (formatXYN 0x8 x y 0x2) = .ok (.andReg x y) ∧
    decodeWord (formatXYN 0x8 x y 0x3) = .ok (.xorReg x y) ∧
    SetsRegister (.orReg x y) x
      (fun s => BitVec.ofFnLE (fun k : Fin 8 => (s.getV x).getLsbD k || (s.getV y).getLsbD k)) ∧
    SetsRegister (.andReg x y) x
      (fun s => BitVec.ofFnLE (fun k : Fin 8 => (s.getV x).getLsbD k && (s.getV y).getLsbD k)) ∧
    SetsRegister (.xorReg x y) x
      (fun s => BitVec.ofFnLE (fun k : Fin 8 => (s.getV x).getLsbD k ^^ (s.getV y).getLsbD k))

/-- spec/40_alu.md R127: the exact sum modulo 256, VF its carry; with x = 15 the result stays (R120). -/
def Obligations.AddSetsCarry : Prop :=
  ∀ x y : Nibble, decodeWord (formatXYN 0x8 x y 0x4) = .ok (.addReg x y) ∧
    SetsRegisterAndFlag (.addReg x y) x
      (fun s => BitVec.ofNat 8 (((s.getV x).toNat + (s.getV y).toNat) % 256))
      (fun s => (s.getV x).toNat + (s.getV y).toNat > 255)

/-- spec/40_alu.md R128, R130: the differences modulo 256, VF the strict comparison of the values before. -/
def Obligations.SubtractsSetStrictFlag : Prop :=
  ∀ x y : Nibble,
    decodeWord (formatXYN 0x8 x y 0x5) = .ok (.subReg x y) ∧
    decodeWord (formatXYN 0x8 x y 0x7) = .ok (.subnReg x y) ∧
    SetsRegisterAndFlag (.subReg x y) x
      (fun s => BitVec.ofInt 8 (((s.getV x).toNat : Int) - ((s.getV y).toNat : Int)))
      (fun s => (s.getV x).toNat > (s.getV y).toNat) ∧
    SetsRegisterAndFlag (.subnReg x y) x
      (fun s => BitVec.ofInt 8 (((s.getV y).toNat : Int) - ((s.getV x).toNat : Int)))
      (fun s => (s.getV y).toNat > (s.getV x).toNat)

/-- spec/40_alu.md R129, R131: the shifts by one of Vx alone, whatever y is, VF the bit shifted out. -/
def Obligations.ShiftsUseVxAlone : Prop :=
  ∀ x y : Nibble,
    decodeWord (formatXYN 0x8 x y 0x6) = .ok (.shr x y) ∧
    decodeWord (formatXYN 0x8 x y 0xE) = .ok (.shl x y) ∧
    SetsRegisterAndFlag (.shr x y) x
      (fun s => BitVec.ofNat 8 ((s.getV x).toNat / 2))
      (fun s => (s.getV x).getLsbD 0 = true) ∧
    SetsRegisterAndFlag (.shl x y) x
      (fun s => BitVec.ofNat 8 ((s.getV x).toNat * 2 % 256))
      (fun s => (s.getV x).getLsbD 7 = true)

/-- spec/40_alu.md R133: RND ands the random input with kk, and an instruction that is not RND ignores the random
input. -/
def Obligations.RandomInputReachesRndAlone : Prop :=
  (∀ (x : Nibble) (kk : Byte), decodeWord (formatXK 0xC x kk) = .ok (.rnd x kk) ∧
    SetsRegister (.rnd x kk) x (fun s => s.rnd &&& kk)) ∧
  (∀ (i : Instr) (s : State) (r : Byte), (∀ (x : Nibble) (kk : Byte), i ≠ .rnd x kk) →
    exec i (s.driveRnd r) = mapNext (fun t => t.driveRnd r) (exec i s))

/-- spec/10_state.md R23: an instruction outside the table of six leaves VF alone, unless it names VF as its destination or
reaches it by a block load. -/
def Obligations.OnlySixInstructionsWriteFlag : Prop :=
  ∀ (i : Instr) (s t : State), exec i s = .next t → writesFlag i = false → destinationIsFlag i = false →
    t.getV 15 = s.getV 15

/-! ## Index register and memory -/

/-- spec/41_index_memory.md R151, R152, R153: the three writes of I; none writes VF. -/
def Obligations.IndexWritesSetIndex : Prop :=
  (∀ nnn : Addr, decodeWord (formatA 0xA nnn) = .ok (.ldI nnn) ∧
    SetsIndex (.ldI nnn) (fun _ => BitVec.ofNat 16 nnn.toNat)) ∧
  (∀ x : Nibble, decodeWord (formatXK 0xF x 0x1E) = .ok (.addI x) ∧
    SetsIndex (.addI x) (fun s => BitVec.ofNat 16 ((s.i.toNat + (s.getV x).toNat) % 65536))) ∧
  (∀ x : Nibble, decodeWord (formatXK 0xF x 0x29) = .ok (.ldF x) ∧
    SetsIndex (.ldF x) (fun s => BitVec.ofNat 16 ((s.getV x).toNat * 5)))

/-- spec/41_index_memory.md R154: three digits at I, I + 1, I + 2 and nothing else, or AddressOutOfRange with nothing
written. -/
def Obligations.BcdStoresThreeDigits : Prop :=
  ∀ x : Nibble, decodeWord (formatXK 0xF x 0x33) = .ok (.ldB x) ∧
    ∀ s : State,
      (s.i.toNat + 2 ≤ 0xFFF → ∃ t : State, exec (.ldB x) s = .next t ∧ t.status = .ok ∧ t.pc = s.pc + 2 ∧
        (t.mem.read s.i.toNat).toNat = (s.getV x).toNat / 100 ∧
        (t.mem.read (s.i.toNat + 1)).toNat = (s.getV x).toNat / 10 % 10 ∧
        (t.mem.read (s.i.toNat + 2)).toNat = (s.getV x).toNat % 10 ∧
        (∀ a : Nat, a < s.i.toNat ∨ s.i.toNat + 2 < a → t.mem.read a = s.mem.read a) ∧
        KeepsAllBut [.memory] s t) ∧
      (0xFFF < s.i.toNat + 2 → ∃ t : State, exec (.ldB x) s = .next t ∧
        Raised .addressOutOfRange (formatXK 0xF x 0x33) (lowestBad s.i) s t)

/-- spec/41_index_memory.md R155: V0 to Vx at I to I + x and nothing else, I unchanged, or AddressOutOfRange with nothing
written. -/
def Obligations.BlockStoreStoresRegisters : Prop :=
  ∀ x : Nibble, decodeWord (formatXK 0xF x 0x55) = .ok (.stRegs x) ∧
    ∀ s : State,
      (s.i.toNat + x.toNat ≤ 0xFFF → ∃ t : State, exec (.stRegs x) s = .next t ∧ t.status = .ok ∧ t.pc = s.pc + 2 ∧
        (∀ k : Nibble, k.toNat ≤ x.toNat → t.mem.read (s.i.toNat + k.toNat) = s.getV k) ∧
        (∀ a : Nat, a < s.i.toNat ∨ s.i.toNat + x.toNat < a → t.mem.read a = s.mem.read a) ∧
        KeepsAllBut [.memory] s t) ∧
      (0xFFF < s.i.toNat + x.toNat → ∃ t : State, exec (.stRegs x) s = .next t ∧
        Raised .addressOutOfRange (formatXK 0xF x 0x55) (lowestBad s.i) s t)

/-- spec/41_index_memory.md R156: V0 to Vx from I to I + x, the higher registers, I and memory unchanged, or AddressOutOfRange
with nothing written. -/
def Obligations.BlockLoadLoadsRegisters : Prop :=
  ∀ x : Nibble, decodeWord (formatXK 0xF x 0x65) = .ok (.ldRegs x) ∧
    ∀ s : State,
      (s.i.toNat + x.toNat ≤ 0xFFF → ∃ t : State, exec (.ldRegs x) s = .next t ∧ t.status = .ok ∧ t.pc = s.pc + 2 ∧
        (∀ k : Nibble, k.toNat ≤ x.toNat → t.getV k = s.mem.read (s.i.toNat + k.toNat)) ∧
        (∀ k : Nibble, x.toNat < k.toNat → t.getV k = s.getV k) ∧
        KeepsAllBut [.registers] s t) ∧
      (0xFFF < s.i.toNat + x.toNat → ∃ t : State, exec (.ldRegs x) s = .next t ∧
        Raised .addressOutOfRange (formatXK 0xF x 0x65) (lowestBad s.i) s t)

/-- spec/20_memory.md R72: a fetch from inside a block just stored reads the stored bytes, the first the high byte (which the
spec derives from R70 and R36). -/
def Obligations.StoreSeenByNextFetch : Prop :=
  ∀ (x k : Nibble) (s t : State), s.i.toNat + x.toNat ≤ 0xFFF → k.toNat < x.toNat →
    exec (.stRegs x) s = .next t →
    fetch { t with pc := s.i + k.setWidth 16 }
      = some (BitVec.ofNat 16 ((s.getV k).toNat * 256 + (s.getV (k + 1)).toNat))

/-! ## Display -/

/-- spec/42_display.md R171: every pixel goes dark and nothing else changes. -/
def Obligations.ClearDarkensEveryPixel : Prop :=
  decodeWord 0x00E0 = .ok .cls ∧
  ∀ s : State, ∃ t : State, exec .cls s = .next t ∧ t.status = .ok ∧ t.pc = s.pc + 2 ∧
    (∀ (row : Fin 32) (col : Fin 64), Display.get t.fb row col = false) ∧ KeepsAllBut [.display] s t

/-- spec/42_display.md R173 (derived there from R172): the closed form of the blitter. Each pixel of the sprite's n rows and 8
columns is XORed once, all others stay, and VF is the collision of the last bit alone. -/
def Obligations.DrawClosedForm : Prop :=
  ∀ (x y n : Nibble) (s : State), 1 ≤ n.toNat → s.i.toNat + n.toNat - 1 ≤ 0xFFF →
    ∃ t : State, exec (.drw x y n) s = .next t ∧ t.status = .ok ∧ t.pc = s.pc + 2 ∧
      (∀ (r c : Nat) (row : Fin 32) (col : Fin 64), r < n.toNat → c < 8 →
        row.val = ((s.getV y).toNat + r) % 32 → col.val = ((s.getV x).toNat + c) % 64 →
        Display.get t.fb row col = (Display.get s.fb row col ^^ (s.mem.read (s.i.toNat + r)).getLsbD (7 - c))) ∧
      (∀ (row : Fin 32) (col : Fin 64),
        (∀ r c : Nat, r < n.toNat → c < 8 →
          ¬ (row.val = ((s.getV y).toNat + r) % 32 ∧ col.val = ((s.getV x).toNat + c) % 64)) →
        Display.get t.fb row col = Display.get s.fb row col) ∧
      (∀ (row : Fin 32) (col : Fin 64),
        row.val = ((s.getV y).toNat + n.toNat - 1) % 32 → col.val = ((s.getV x).toNat + 7) % 64 →
        t.getV 15 = if Display.get s.fb row col && (s.mem.read (s.i.toNat + n.toNat - 1)).getLsbD 0 then 1 else 0) ∧
      (∀ z : Nibble, z ≠ 15 → t.getV z = s.getV z) ∧
      KeepsAllBut [.registers, .display] s t

/-- spec/42_display.md R174 (a), with decision D13 of the spec (log entry 7): a sprite of no rows changes nothing but PC,
wherever I points. -/
def Obligations.DrawOfNoRowsChangesNothing : Prop :=
  ∀ x y : Nibble, decodeWord (formatXYN 0xD x y 0) = .ok (.drw x y 0) ∧
    MovesPcOnly (.drw x y 0) (fun s => s.pc + 2)

/-- spec/42_display.md R172 (its Faults) and spec/60_exceptions.md R244: a sprite that reaches above 0xFFF raises
AddressOutOfRange and draws nothing. -/
def Obligations.DrawOutOfRangeRaises : Prop :=
  ∀ x y n : Nibble, decodeWord (formatXYN 0xD x y n) = .ok (.drw x y n) ∧
    ∀ s : State, n.toNat > 0 → s.i.toNat + n.toNat - 1 > 0xFFF →
      ∃ t : State, exec (.drw x y n) s = .next t ∧
        Raised .addressOutOfRange (formatXYN 0xD x y n) (lowestBad s.i) s t

/-- spec/42_display.md R174 (d): drawing the same sprite twice at the same place restores every pixel (derived there from
R173). With x or y = 15 the first draw changes the place (R174 (f)), so these two are left out here. -/
def Obligations.DrawTwiceRestoresDisplay : Prop :=
  ∀ (x y n : Nibble) (s : State), x ≠ 15 → y ≠ 15 → s.i.toNat + n.toNat ≤ 0x1000 →
    ∃ t u : State, exec (.drw x y n) s = .next t ∧ exec (.drw x y n) t = .next u ∧
      ∀ (row : Fin 32) (col : Fin 64), Display.get u.fb row col = Display.get s.fb row col

/-! ## Keypad and timers -/

/-- spec/43_keypad_timers.md R191, R192: the key skips test the key whose number Vx holds, and raise KeyIndexOutOfRange
when there is none. -/
def Obligations.KeySkipsTestKeyOfVx : Prop :=
  ∀ x : Nibble,
    decodeWord (formatXK 0xE x 0x9E) = .ok (.skp x) ∧ decodeWord (formatXK 0xE x 0xA1) = .ok (.sknp x) ∧
    ∀ s : State,
      ((s.getV x).toNat ≤ 15 →
        (∃ t : State, exec (.skp x) s = .next t ∧ t.status = .ok ∧ KeepsAllBut [] s t ∧
          t.pc = if s.keys.getLsbD (s.getV x).toNat = true then s.pc + 4 else s.pc + 2) ∧
        (∃ t : State, exec (.sknp x) s = .next t ∧ t.status = .ok ∧ KeepsAllBut [] s t ∧
          t.pc = if s.keys.getLsbD (s.getV x).toNat = false then s.pc + 4 else s.pc + 2)) ∧
      (15 < (s.getV x).toNat →
        (∃ t : State, exec (.skp x) s = .next t ∧ Raised .keyIndexOutOfRange (formatXK 0xE x 0x9E) 0 s t) ∧
        (∃ t : State, exec (.sknp x) s = .next t ∧ Raised .keyIndexOutOfRange (formatXK 0xE x 0xA1) 0 s t))

/-- spec/43_keypad_timers.md R193: with no key down the wait changes nothing but the status; with keys down the least one
goes to Vx. -/
def Obligations.KeyWaitTakesLeastKey : Prop :=
  ∀ x : Nibble, decodeWord (formatXK 0xF x 0x0A) = .ok (.ldVxK x) ∧
    ∀ s : State,
      (s.keys = 0 → exec (.ldVxK x) s = .next { s with status := .waitKey }) ∧
      (∀ k : Nat, k < 16 → s.keys.getLsbD k = true → (∀ j : Nat, j < k → s.keys.getLsbD j = false) →
        ∃ t : State, exec (.ldVxK x) s = .next t ∧ t.status = .ok ∧ t.pc = s.pc + 2 ∧
          (t.getV x).toNat = k ∧ (∀ z : Nibble, z ≠ x → t.getV z = s.getV z) ∧ KeepsAllBut [.registers] s t)

/-- spec/43_keypad_timers.md R194, R195, R196: the timer copies, with no side effect. -/
def Obligations.TimerCopies : Prop :=
  ∀ x : Nibble,
    decodeWord (formatXK 0xF x 0x07) = .ok (.ldVxDt x) ∧
    decodeWord (formatXK 0xF x 0x15) = .ok (.ldDtVx x) ∧
    decodeWord (formatXK 0xF x 0x18) = .ok (.ldStVx x) ∧
    SetsRegister (.ldVxDt x) x (fun s => s.dt) ∧
    (∀ s : State, ∃ t : State, exec (.ldDtVx x) s = .next t ∧ t.status = .ok ∧ t.pc = s.pc + 2 ∧
      t.dt = s.getV x ∧ KeepsAllBut [.dt] s t) ∧
    (∀ s : State, ∃ t : State, exec (.ldStVx x) s = .next t ∧ t.status = .ok ∧ t.pc = s.pc + 2 ∧
      t.st = s.getV x ∧ KeepsAllBut [.st] s t)

/-- spec/60_exceptions.md R263, row Keys: CORE reads the keys only in SKP, SKNP and LD Vx,K; any other instruction does the
same whatever the keys are. -/
def Obligations.KeysReachThreeInstructions : Prop :=
  ∀ (i : Instr) (s : State) (k : Word), (∀ x : Nibble, i ≠ .skp x ∧ i ≠ .sknp x ∧ i ≠ .ldVxK x) →
    exec i (s.driveKeys k) = mapNext (fun t => t.driveKeys k) (exec i s)

/-! ## Control transfer -/

/-- spec/44_control.md R211, R214: the two jumps; the sum of JP V0 is exact and the stack is not touched. -/
def Obligations.JumpsSetPc : Prop :=
  ∀ nnn : Addr,
    decodeWord (formatA 0x1 nnn) = .ok (.jp nnn) ∧ decodeWord (formatA 0xB nnn) = .ok (.jpV0 nnn) ∧
    (∀ s : State, ∃ t : State, exec (.jp nnn) s = .next t ∧ t.status = .ok ∧ t.pc.toNat = nnn.toNat ∧
      KeepsAllBut [] s t) ∧
    (∀ s : State, ∃ t : State, exec (.jpV0 nnn) s = .next t ∧ t.status = .ok ∧
      t.pc.toNat = nnn.toNat + (s.getV 0).toNat ∧ KeepsAllBut [] s t)

/-- spec/44_control.md R212: CALL pushes the address after it, or raises StackOverflow when 16 entries are in use. -/
def Obligations.CallPushesReturnAddress : Prop :=
  ∀ nnn : Addr, decodeWord (formatA 0x2 nnn) = .ok (.call nnn) ∧
    ∀ s : State,
      (s.sp = 15 → ∃ t : State, exec (.call nnn) s = .next t ∧ Raised .stackOverflow (formatA 0x2 nnn) 0 s t) ∧
      (SpLegal s → s.sp ≠ 15 → ∃ t : State, exec (.call nnn) s = .next t ∧ t.status = .ok ∧
        t.pc.toNat = nnn.toNat ∧ t.sp = s.sp + 1 ∧ t.sp.toNat ≤ 15 ∧
        t.stack.toList.getD t.sp.toNat 0 = s.pc + 2 ∧
        (∀ k : Nat, k ≠ t.sp.toNat → t.stack.toList.getD k 0 = s.stack.toList.getD k 0) ∧
        KeepsAllBut [.sp, .stack] s t)

/-- spec/44_control.md R213: RET pops the entry at SP and leaves it in place, or raises StackUnderflow on an empty stack. -/
def Obligations.ReturnPopsReturnAddress : Prop :=
  decodeWord 0x00EE = .ok .ret ∧
  ∀ s : State,
    (s.sp = 0xFF → ∃ t : State, exec .ret s = .next t ∧ Raised .stackUnderflow 0x00EE 0 s t) ∧
    (s.sp.toNat ≤ 15 → ∃ t : State, exec .ret s = .next t ∧ t.status = .ok ∧
      t.pc = s.stack.toList.getD s.sp.toNat 0 ∧ t.sp = s.sp - 1 ∧ KeepsAllBut [.sp] s t)

/-- spec/95_test_vectors.md S6 (R212, R213): a RET right after a CALL comes back to the address after the CALL with SP as
before it. -/
def Obligations.CallThenReturnComesBack : Prop :=
  ∀ (nnn : Addr) (s : State), SpLegal s → s.sp ≠ 15 →
    ∃ t u : State, exec (.call nnn) s = .next t ∧ exec .ret t = .next u ∧
      u.pc = s.pc + 2 ∧ u.sp = s.sp ∧ KeepsAllBut [.stack] s u

/-- The model's choice (log entry 4), for the SP values that spec/10_state.md R27 says no run reaches: CALL and RET stop by
name, so no claim can rest on what they would do. -/
def Obligations.IllegalStackPointerStops : Prop :=
  ∀ (nnn : Addr) (s : State), ¬ SpLegal s →
    exec (.call nnn) s = .fault .illegalStackPointer ∧ exec .ret s = .fault .illegalStackPointer

/-- spec/44_control.md R215, R216: the immediate skips. -/
def Obligations.ImmediateSkips : Prop :=
  ∀ (x : Nibble) (kk : Byte),
    decodeWord (formatXK 0x3 x kk) = .ok (.seImm x kk) ∧ decodeWord (formatXK 0x4 x kk) = .ok (.sneImm x kk) ∧
    MovesPcOnly (.seImm x kk) (fun s => if s.getV x = kk then s.pc + 4 else s.pc + 2) ∧
    MovesPcOnly (.sneImm x kk) (fun s => if s.getV x ≠ kk then s.pc + 4 else s.pc + 2)

/-- spec/44_control.md R217, R218: the register skips, for every value of the ignored low nibble. -/
def Obligations.RegisterSkips : Prop :=
  ∀ x y z : Nibble,
    decodeWord (formatXYN 0x5 x y z) = .ok (.seReg x y z) ∧ decodeWord (formatXYN 0x9 x y z) = .ok (.sneReg x y z) ∧
    MovesPcOnly (.seReg x y z) (fun s => if s.getV x = s.getV y then s.pc + 4 else s.pc + 2) ∧
    MovesPcOnly (.sneReg x y z) (fun s => if s.getV x ≠ s.getV y then s.pc + 4 else s.pc + 2)

/-- spec/44_control.md R219: SYS only advances PC. -/
def Obligations.SysOnlyAdvances : Prop :=
  ∀ nnn : Addr, (nnn ≠ 0x0E0 → nnn ≠ 0x0EE → decodeWord (formatA 0x0 nnn) = .ok (.sys nnn)) ∧
    MovesPcOnly (.sys nnn) (fun s => s.pc + 2)

/-- spec/44_control.md R210: the program-counter policy. An instruction that ends OK leaves PC as the table says, and one that
waits or faults leaves it unchanged. -/
def Obligations.ProgramCounterPolicy : Prop :=
  ∀ (i : Instr) (s t : State), exec i s = .next t →
    (t.status = .ok → t.pc = policyPc i s) ∧ (t.status ≠ .ok → t.pc = s.pc)

/-! ## Whole-machine rules -/

/-- spec/10_state.md R24, R27 to R30, R34, R35 and spec/20_memory.md R66: each part of the state is changed by its own
instructions alone, and the keys by none. -/
def Obligations.EachPartHasItsWriters : Prop :=
  ∀ (i : Instr) (s t : State), exec i s = .next t → KeepsAllBut (partsWritten i) s t

/-- spec/60_exceptions.md R240, R242 to R247: the execute phase raises exactly the cause of the table, and none otherwise (the
order of the checks in R247 is derived there from R262). -/
def Obligations.ExecuteRaisesExactlyTheTablesCause : Prop :=
  ∀ (i : Instr) (s t : State), exec i s = .next t →
    (executeCause i s = .none → t.latch = s.latch ∧ t.status ≠ .fault) ∧
    (executeCause i s ≠ .none → t.status = .fault ∧ t.latch.halted = true ∧ t.latch.cause = executeCause i s ∧
      t.latch.op = encode i ∧ t.latch.pc = s.pc ∧
      t.latch.addr = if executeCause i s = .addressOutOfRange then lowestBad s.i else 0)

/-- spec/60_exceptions.md R262 (the model adds the driver's turn, log entry 1, and notes that a step was taken, log entry 6):
when the bytes at PC decode to an instruction, a step is the driver's turn and then the execute phase of it. -/
def Obligations.StepRunsDecodedInstruction : Prop :=
  ∀ (s : State) (i : Instr), s.latch.halted = false → s.pc.toNat ≤ 0xFFE →
    decodeWord (wordOfBytes (s.mem.read s.pc.toNat) (s.mem.read (s.pc.toNat + 1))) = .ok i →
    step s = exec i { s.driverTurn with launched := true }

/-- spec/20_memory.md R63: the fetch is big-endian, and above 0xFFE it raises AddressOutOfRange with FAULT_OP 0. -/
def Obligations.FetchIsBigEndianAndChecked : Prop :=
  ∀ s : State,
    (s.pc.toNat ≤ 0xFFE → fetch s = some (opcodeAtPc s)) ∧
    (0xFFE < s.pc.toNat → fetch s = none) ∧
    (0xFFE < s.pc.toNat → s.latch.halted = false →
      ∃ t : State, coreStep s = .next t ∧ StepRaised .addressOutOfRange 0 (lowestBad s.pc) s t)

/-- spec/60_exceptions.md R241: an invalid opcode is reported with the opcode and PC, and the core stops on it. -/
def Obligations.InvalidOpcodeRaises : Prop :=
  ∀ (s : State) (e : DecodeError), s.latch.halted = false → s.pc.toNat ≤ 0xFFE →
    decodeWord (opcodeAtPc s) = .error e →
    ∃ t : State, coreStep s = .next t ∧ StepRaised .invalidOpcode (opcodeAtPc s) 0 s t ∧ coreStep t = .next t

/-- spec/60_exceptions.md R248: while halted a step does nothing and answers FAULT, the ticks still act and the framebuffer
can still be read. -/
def Obligations.HaltedStepDoesNothing : Prop :=
  ∀ s : State, s.latch.halted = true →
    coreStep s = .next { s with status := .fault } ∧
    (∃ t : State, Event.apply .tickDt s = .next t ∧ t.dt.toNat = s.dt.toNat - 1 ∧ t.latch = s.latch) ∧
    (∃ t : State, Event.apply .tickSt s = .next t ∧ t.st.toNat = s.st.toNat - 1 ∧ t.latch = s.latch) ∧
    (∀ (row : Fin 32) (col : Fin 64),
      (outputs s).fb.getLsbD (row.val * 64 + col.val) = Display.get s.fb row col)

/-- spec/60_exceptions.md R245: a fault is precise. A step of a core that is not halted and answers FAULT has changed nothing
but the latch and the status (and the model's note that a step was taken, log entry 6). -/
def Obligations.FaultsArePrecise : Prop :=
  ∀ s t : State, s.latch.halted = false → coreStep s = .next t → t.status = .fault →
    ∃ (c : Cause) (op : Word) (addr : FaultAddr), c ≠ .none ∧ Raised c op addr { s with launched := true } t

/-- spec/00_scope.md R13: a step ends in one of three ways. OK leaves the latch alone, WAIT_KEY is the key wait with no key down
and changes nothing, FAULT changes nothing but the latch (launched: log entry 6). -/
def Obligations.StepEndsInOneOfThreeWays : Prop :=
  ∀ s t : State, coreStep s = .next t →
    (t.status = .ok ∧ s.latch.halted = false ∧ t.latch = s.latch) ∨
    (t = { s with launched := true, status := .waitKey } ∧ s.keys = 0 ∧
      ∃ x : Nibble, decodeWord (opcodeAtPc s) = .ok (.ldVxK x)) ∨
    (t.status = .fault ∧ t.latch.halted = true ∧ t.pc = s.pc ∧
      KeepsAllBut [.latch, .inputs] s t ∧ t.keys = s.keys ∧ t.rnd = s.rnd)

/-- spec/60_exceptions.md R242, R243, R262 with spec/10_state.md R27: with a legal SP a step of CORE always answers a next
state, and SP is legal after it. -/
def Obligations.StepAlwaysAnswers : Prop :=
  ∀ s : State, SpLegal s → ∃ t : State, coreStep s = .next t ∧ SpLegal t

/-- spec/60_exceptions.md R249: nothing but reset clears the latch. -/
def Obligations.OnlyResetClearsLatch : Prop :=
  ∀ (es : List Event) (s t : State), s.latch.halted = true → .assertReset ∉ es → runEvents es s = .next t →
    t.latch = s.latch ∧ t.pc = s.pc ∧ t.v = s.v ∧ t.i = s.i ∧ t.sp = s.sp ∧ t.stack = s.stack ∧ t.fb = s.fb

/-- spec/70_reset_and_hazards.md R289 (decision D20 of the spec): in the idle loop every further step leaves all state
unchanged. -/
def Obligations.FinishedIsFixedPoint : Prop :=
  ∀ s : State, Finished s → s.latch.halted = false →
    coreStep s = .next { s with status := .ok, launched := true }

/-! ## Reset, launch and the agents outside -/

/-- spec/10_state.md R40: the value of every piece of state after reset, for any FONT_DATA; `State.reset` is reset with the
default FONT_DATA. -/
def Obligations.ResetGivesTheTable : Prop :=
  State.resetWith defaultFont = State.reset ∧
  ∀ font : Font,
    (∀ a : Fin 80, (State.resetWith font).mem.read a.val = font[a]) ∧
    (∀ a : Nat, 80 ≤ a → (State.resetWith font).mem.read a = 0) ∧
    (∀ z : Nibble, (State.resetWith font).getV z = 0) ∧
    (State.resetWith font).i = 0 ∧ (State.resetWith font).pc = 0x0200 ∧ (State.resetWith font).sp = 0xFF ∧
    (∀ k : Fin 16, (State.resetWith font).stack[k] = 0) ∧
    (State.resetWith font).dt = 0 ∧ (State.resetWith font).st = 0 ∧
    (∀ (row : Fin 32) (col : Fin 64), Display.get (State.resetWith font).fb row col = false) ∧
    (State.resetWith font).latch = ⟨false, .none, 0, 0, 0⟩ ∧ (State.resetWith font).keys = 0

/-- spec/70_reset_and_hazards.md R280, R281: reset from any state gives the state after reset with the machine's own
FONT_DATA at 0x000 to 0x04F and zero in every other cell. That the input ports stay the driver's is the model's choice (log
entry 10). -/
def Obligations.ResetFromAnyState : Prop :=
  ∀ s : State, ∃ t : State, Event.apply .assertReset s = .next t ∧ KeepsAllBut [.inputs] (State.resetWith s.font) t ∧
    (∀ a : Fin 80, t.mem.read a.val = s.font[a]) ∧ (∀ a : Nat, 80 ≤ a → t.mem.read a = 0) ∧
    t.pc = 0x0200 ∧ t.latch.halted = false ∧ t.status = .ok ∧ t.launched = false ∧
    t.keys = s.keys ∧ t.rnd = s.rnd

/-- spec/00_scope.md R8 and spec/10_state.md R33: FONT_DATA is a parameter of the machine. However a launch with any font and
image goes on, a reset puts the same 80 bytes back and clears every other cell. -/
def Obligations.EveryResetRestoresTheFont : Prop :=
  ∀ (font : Font) (rom : List Byte) (es : List Event) (s t : State),
    launchState font rom = some s → runEvents es s = .next t →
    t.font = font ∧
    ∃ u : State, Event.apply .assertReset t = .next u ∧ u.font = font ∧
      (∀ a : Fin 80, u.mem.read a.val = font[a]) ∧ (∀ a : Nat, 80 ≤ a → u.mem.read a = 0)

/-- spec/70_reset_and_hazards.md R284, R283: the launch state of an image of at most 3584 bytes, and no launch state for a
longer one. -/
def Obligations.LaunchStateHoldsImage : Prop :=
  ∀ (font : Font) (rom : List Byte),
    (rom.length ≤ 3584 → ∃ s : State, launchState font rom = some s ∧
      (∀ a : Fin 80, s.mem.read a.val = font[a]) ∧
      (∀ k : Nat, k < rom.length → s.mem.read (0x200 + k) = rom.getD k 0) ∧
      (∀ a : Nat, 80 ≤ a → (a < 0x200 ∨ 0x200 + rom.length ≤ a) → s.mem.read a = 0) ∧
      s.pc = 0x0200 ∧ s.latch.halted = false ∧ KeepsAllBut [.memory, .inputs] (State.resetWith font) s) ∧
    (3584 < rom.length → launchState font rom = none)

/-- spec/60_exceptions.md R260 and spec/20_memory.md R73: a loader write changes one cell before the first step and nothing
after it. -/
def Obligations.LoaderClosedByFirstStep : Prop :=
  ∀ (s : State) (a : Addr) (b : Byte),
    (s.launched = false → ∃ t : State, Event.apply (.loadByte a b) s = .next t ∧ t.mem.read a.toNat = b ∧
      (∀ c : Nat, c ≠ a.toNat → t.mem.read c = s.mem.read c) ∧ t.pc = s.pc ∧ t.status = s.status ∧
      KeepsAllBut [.memory] s t) ∧
    (∀ t : State, s.latch.halted = false → coreStep s = .next t → Event.apply (.loadByte a b) t = .next t)

/-- spec/60_exceptions.md R255: a tick is a saturating decrement of its own timer and touches nothing else. -/
def Obligations.TicksSaturate : Prop :=
  ∀ s : State,
    (∃ t : State, Event.apply .tickDt s = .next t ∧ t.dt.toNat = s.dt.toNat - 1 ∧ t.pc = s.pc ∧
      t.status = s.status ∧ KeepsAllBut [.dt] s t) ∧
    (∃ t : State, Event.apply .tickSt s = .next t ∧ t.st.toNat = s.st.toNat - 1 ∧ t.pc = s.pc ∧
      t.status = s.status ∧ KeepsAllBut [.st] s t)

/-- spec/00_scope.md R16 and spec/60_exceptions.md R263 (the turn is the model's, log entry 1): the driver's free turn is a run of
single ticks and new inputs, so that a step of the host is a run of the spec's events. -/
def Obligations.StepIsARunOfEvents : Prop :=
  ∀ s : State,
    step s = runEvents
      (List.replicate (Config.dtTicks s.turn) .tickDt ++ List.replicate (Config.stTicks s.turn) .tickSt ++
        [.driveKeys (Config.keys s.turn), .driveRnd (Config.rnd s.turn), .step])
      { s with turn := s.turn + 1 }

/-- spec/60_exceptions.md R261: what the output ports carry; pixel (row, col) is bit row * 64 + col. -/
def Obligations.OutputsCarryTheirBits : Prop :=
  ∀ s : State,
    (∀ (row : Fin 32) (col : Fin 64),
      (outputs s).fb.getLsbD (row.val * 64 + col.val) = Display.get s.fb row col) ∧
    (outputs s).dt = s.dt ∧ (outputs s).st = s.st ∧
    ((outputs s).status = 0 ↔ s.status = .ok) ∧ ((outputs s).status = 1 ↔ s.status = .waitKey) ∧
    ((outputs s).status = 2 ↔ s.status = .fault) ∧
    ((outputs s).halted = 1 ↔ s.latch.halted = true) ∧
    ((outputs s).cause = 0 ↔ s.latch.cause = .none) ∧ ((outputs s).cause = 1 ↔ s.latch.cause = .invalidOpcode) ∧
    ((outputs s).cause = 2 ↔ s.latch.cause = .stackOverflow) ∧
    ((outputs s).cause = 3 ↔ s.latch.cause = .stackUnderflow) ∧
    ((outputs s).cause = 4 ↔ s.latch.cause = .addressOutOfRange) ∧
    ((outputs s).cause = 5 ↔ s.latch.cause = .keyIndexOutOfRange) ∧
    (outputs s).faultOp = s.latch.op ∧ (outputs s).faultPc = s.latch.pc ∧ (outputs s).faultAddr = s.latch.addr

/-! ## The invariant -/

/-- spec/10_state.md R40: the invariant holds after reset, whatever FONT_DATA is. -/
def Obligations.ResetMeetsInvariant : Prop := Inv State.reset ∧ ∀ font : Font, Inv (State.resetWith font)

/-- The invariant of spec/10_state.md R26, R27, R37, R38 is kept by every event of every agent, from every state that meets
it, and no event stops. -/
def Obligations.EveryEventKeepsInvariant : Prop :=
  ∀ (e : Event) (s : State), Inv s → ∃ t : State, e.apply s = .next t ∧ Inv t

/-- The invariant is kept by the host's step, from every state that meets it. -/
def Obligations.StepKeepsInvariant : Prop :=
  ∀ s t : State, Inv s → step s = .next t → Inv t

/-- spec/00_scope.md R16 and spec/70_reset_and_hazards.md R288: however steps, ticks, key changes, loads and resets interleave from
any state that meets the invariant, the run goes on and the invariant holds at its end. -/
def Obligations.EveryInterleavingGoesOn : Prop :=
  ∀ (es : List Event) (s : State), Inv s → ∃ t : State, runEvents es s = .next t ∧ Inv t
end

