-- ==== Sys2Proof/Laws/Decode.lean ====
section
/-! SUPPORT. The fields of a word of each format (spec/30_encoding.md R91, R93). -/

namespace Sys2Proof

theorem getLsbD_formatA (op : Nibble) (nnn : Addr) (i : Nat) :
    (formatA op nnn).getLsbD i = if i < 12 then nnn.getLsbD i else op.getLsbD (i - 12) := by
  exact BitVec.getLsbD_append (x := op) (y := nnn) (i := i)

theorem getLsbD_formatXK (op x : Nibble) (kk : Byte) (i : Nat) :
    (formatXK op x kk).getLsbD i
      = if i < 12 then if i < 8 then kk.getLsbD i else x.getLsbD (i - 8) else op.getLsbD (i - 12) := by
  have h := BitVec.getLsbD_append (x := op) (y := (x ++ kk : BitVec 12)) (i := i)
  have h' := BitVec.getLsbD_append (x := x) (y := kk) (i := i)
  rw [← h']
  exact h

theorem getLsbD_wordOfBytes (hi lo : Byte) (i : Nat) :
    (wordOfBytes hi lo).getLsbD i = if i < 8 then lo.getLsbD i else hi.getLsbD (i - 8) :=
  BitVec.getLsbD_append

theorem getLsbD_nibbles (y n : Nibble) (i : Nat) :
    BitVec.getLsbD (y ++ n : BitVec 8) i = if i < 4 then n.getLsbD i else y.getLsbD (i - 4) :=
  BitVec.getLsbD_append

theorem getLsbD_formatXYN (op x y n : Nibble) (i : Nat) :
    (formatXYN op x y n).getLsbD i
      = if i < 12 then if i < 8 then if i < 4 then n.getLsbD i else y.getLsbD (i - 4) else x.getLsbD (i - 8)
        else op.getLsbD (i - 12) := by
  rw [← getLsbD_nibbles]
  exact getLsbD_formatXK op x (y ++ n) i

/-- Formats XY and XYN are format XK with the two low nibbles as kk. -/
theorem formatXYN_eq (op x y n : Nibble) : formatXYN op x y n = formatXK op x (y ++ n) := rfl

theorem opTop_formatA (op : Nibble) (nnn : Addr) : opTop (formatA op nnn) = op := by
  apply BitVec.eq_of_getLsbD_eq
  intro i hi
  simp [opTop, getLsbD_formatA, hi]

theorem opNnn_formatA (op : Nibble) (nnn : Addr) : opNnn (formatA op nnn) = nnn := by
  apply BitVec.eq_of_getLsbD_eq
  intro i hi
  simp [opNnn, getLsbD_formatA, hi]

theorem opTop_formatXK (op x : Nibble) (kk : Byte) : opTop (formatXK op x kk) = op := by
  apply BitVec.eq_of_getLsbD_eq
  intro i hi
  simp [opTop, getLsbD_formatXK, hi]

theorem opX_formatXK (op x : Nibble) (kk : Byte) : opX (formatXK op x kk) = x := by
  apply BitVec.eq_of_getLsbD_eq
  intro i hi
  have h1 : 8 + i < 12 := by omega
  simp [opX, getLsbD_formatXK, hi, h1]

theorem opKk_formatXK (op x : Nibble) (kk : Byte) : opKk (formatXK op x kk) = kk := by
  apply BitVec.eq_of_getLsbD_eq
  intro i hi
  have h1 : i < 12 := by omega
  simp [opKk, getLsbD_formatXK, hi, h1]

theorem opTop_formatXYN (op x y n : Nibble) : opTop (formatXYN op x y n) = op := by
  apply BitVec.eq_of_getLsbD_eq
  intro i hi
  simp [opTop, getLsbD_formatXYN, hi]

theorem opX_formatXYN (op x y n : Nibble) : opX (formatXYN op x y n) = x := by
  apply BitVec.eq_of_getLsbD_eq
  intro i hi
  have h1 : 8 + i < 12 := by omega
  simp [opX, getLsbD_formatXYN, hi, h1]

theorem opY_formatXYN (op x y n : Nibble) : opY (formatXYN op x y n) = y := by
  apply BitVec.eq_of_getLsbD_eq
  intro i hi
  have h1 : 4 + i < 12 := by omega
  have h2 : 4 + i < 8 := by omega
  simp [opY, getLsbD_formatXYN, hi, h1, h2]

theorem opN_formatXYN (op x y n : Nibble) : opN (formatXYN op x y n) = n := by
  apply BitVec.eq_of_getLsbD_eq
  intro i hi
  have h1 : i < 12 := by omega
  have h2 : i < 8 := by omega
  simp [opN, getLsbD_formatXYN, hi, h1, h2]

/-- A word is its top nibble and its address field. -/
theorem formatA_fields (w : Word) : formatA (opTop w) (opNnn w) = w := by
  apply BitVec.eq_of_getLsbD_eq
  intro i hi
  by_cases h : i < 12
  · simp [opTop, opNnn, getLsbD_formatA, h]
  · have h1 : i - 12 < 4 := by omega
    have h2 : 12 + (i - 12) = i := by omega
    simp [opTop, getLsbD_formatA, h, h1, h2]

/-- A word is its top nibble, x and kk. -/
theorem formatXK_fields (w : Word) : formatXK (opTop w) (opX w) (opKk w) = w := by
  apply BitVec.eq_of_getLsbD_eq
  intro i hi
  by_cases h : i < 12
  · by_cases h8 : i < 8
    · simp [opKk, getLsbD_formatXK, h, h8]
    · have h1 : i - 8 < 4 := by omega
      have h2 : 8 + (i - 8) = i := by omega
      simp [opX, getLsbD_formatXK, h, h8, h1, h2]
  · have h1 : i - 12 < 4 := by omega
    have h2 : 12 + (i - 12) = i := by omega
    simp [opTop, getLsbD_formatXK, h, h1, h2]

/-- The low byte is y and n. -/
theorem kk_fields (w : Word) : opKk w = opY w ++ opN w := by
  apply BitVec.eq_of_getLsbD_eq
  intro i hi
  rw [getLsbD_nibbles]
  by_cases h4 : i < 4
  · simp [opKk, opN, hi, h4]
  · have h1 : i - 4 < 4 := by omega
    have h2 : 4 + (i - 4) = i := by omega
    simp [opKk, opY, hi, h4, h1, h2]

/-- A word is its top nibble, x, y and n. -/
theorem formatXYN_fields (w : Word) : formatXYN (opTop w) (opX w) (opY w) (opN w) = w := by
  rw [formatXYN_eq, ← kk_fields, formatXK_fields]

/-- The two bytes of a word are the word. -/
theorem wordOfBytes_bytes (w : Word) : wordOfBytes (w.extractLsb' 8 8) (w.extractLsb' 0 8) = w := by
  apply BitVec.eq_of_getLsbD_eq
  intro i hi
  by_cases h8 : i < 8
  · simp [getLsbD_wordOfBytes, h8]
  · have h1 : i - 8 < 8 := by omega
    have h2 : 8 + (i - 8) = i := by omega
    simp [getLsbD_wordOfBytes, h8, h1, h2]

end Sys2Proof
end

