-- ==== Sys2Proof/Laws/State.lean ====
section
/-! SUPPORT. One lemma per field per update of the state, so that no later proof unfolds a record update. -/

namespace Sys2Proof.Machine

/-! `State.setV` -/

section
variable (s : State) (x : Nibble) (b : Byte)

@[simp] theorem setV_v : (s.setV x b).v = s.v.set x.toNat b x.isLt := rfl
@[simp] theorem setV_i : (s.setV x b).i = s.i := rfl
@[simp] theorem setV_pc : (s.setV x b).pc = s.pc := rfl
@[simp] theorem setV_sp : (s.setV x b).sp = s.sp := rfl
@[simp] theorem setV_stack : (s.setV x b).stack = s.stack := rfl
@[simp] theorem setV_dt : (s.setV x b).dt = s.dt := rfl
@[simp] theorem setV_st : (s.setV x b).st = s.st := rfl
@[simp] theorem setV_mem : (s.setV x b).mem = s.mem := rfl
@[simp] theorem setV_fb : (s.setV x b).fb = s.fb := rfl
@[simp] theorem setV_latch : (s.setV x b).latch = s.latch := rfl
@[simp] theorem setV_status : (s.setV x b).status = s.status := rfl
@[simp] theorem setV_keys : (s.setV x b).keys = s.keys := rfl
@[simp] theorem setV_rnd : (s.setV x b).rnd = s.rnd := rfl
@[simp] theorem setV_launched : (s.setV x b).launched = s.launched := rfl
@[simp] theorem setV_font : (s.setV x b).font = s.font := rfl
@[simp] theorem setV_turn : (s.setV x b).turn = s.turn := rfl

end

/-! `State.setI` -/

section
variable (s : State) (w : Word)

@[simp] theorem setI_v : (s.setI w).v = s.v := rfl
@[simp] theorem setI_i : (s.setI w).i = w := rfl
@[simp] theorem setI_pc : (s.setI w).pc = s.pc := rfl
@[simp] theorem setI_sp : (s.setI w).sp = s.sp := rfl
@[simp] theorem setI_stack : (s.setI w).stack = s.stack := rfl
@[simp] theorem setI_dt : (s.setI w).dt = s.dt := rfl
@[simp] theorem setI_st : (s.setI w).st = s.st := rfl
@[simp] theorem setI_mem : (s.setI w).mem = s.mem := rfl
@[simp] theorem setI_fb : (s.setI w).fb = s.fb := rfl
@[simp] theorem setI_latch : (s.setI w).latch = s.latch := rfl
@[simp] theorem setI_status : (s.setI w).status = s.status := rfl
@[simp] theorem setI_keys : (s.setI w).keys = s.keys := rfl
@[simp] theorem setI_rnd : (s.setI w).rnd = s.rnd := rfl
@[simp] theorem setI_launched : (s.setI w).launched = s.launched := rfl
@[simp] theorem setI_font : (s.setI w).font = s.font := rfl
@[simp] theorem setI_turn : (s.setI w).turn = s.turn := rfl

end

/-! `State.setDt` -/

section
variable (s : State) (b : Byte)

@[simp] theorem setDt_v : (s.setDt b).v = s.v := rfl
@[simp] theorem setDt_i : (s.setDt b).i = s.i := rfl
@[simp] theorem setDt_pc : (s.setDt b).pc = s.pc := rfl
@[simp] theorem setDt_sp : (s.setDt b).sp = s.sp := rfl
@[simp] theorem setDt_stack : (s.setDt b).stack = s.stack := rfl
@[simp] theorem setDt_dt : (s.setDt b).dt = b := rfl
@[simp] theorem setDt_st : (s.setDt b).st = s.st := rfl
@[simp] theorem setDt_mem : (s.setDt b).mem = s.mem := rfl
@[simp] theorem setDt_fb : (s.setDt b).fb = s.fb := rfl
@[simp] theorem setDt_latch : (s.setDt b).latch = s.latch := rfl
@[simp] theorem setDt_status : (s.setDt b).status = s.status := rfl
@[simp] theorem setDt_keys : (s.setDt b).keys = s.keys := rfl
@[simp] theorem setDt_rnd : (s.setDt b).rnd = s.rnd := rfl
@[simp] theorem setDt_launched : (s.setDt b).launched = s.launched := rfl
@[simp] theorem setDt_font : (s.setDt b).font = s.font := rfl
@[simp] theorem setDt_turn : (s.setDt b).turn = s.turn := rfl

end

/-! `State.setSt` -/

section
variable (s : State) (b : Byte)

@[simp] theorem setSt_v : (s.setSt b).v = s.v := rfl
@[simp] theorem setSt_i : (s.setSt b).i = s.i := rfl
@[simp] theorem setSt_pc : (s.setSt b).pc = s.pc := rfl
@[simp] theorem setSt_sp : (s.setSt b).sp = s.sp := rfl
@[simp] theorem setSt_stack : (s.setSt b).stack = s.stack := rfl
@[simp] theorem setSt_dt : (s.setSt b).dt = s.dt := rfl
@[simp] theorem setSt_st : (s.setSt b).st = b := rfl
@[simp] theorem setSt_mem : (s.setSt b).mem = s.mem := rfl
@[simp] theorem setSt_fb : (s.setSt b).fb = s.fb := rfl
@[simp] theorem setSt_latch : (s.setSt b).latch = s.latch := rfl
@[simp] theorem setSt_status : (s.setSt b).status = s.status := rfl
@[simp] theorem setSt_keys : (s.setSt b).keys = s.keys := rfl
@[simp] theorem setSt_rnd : (s.setSt b).rnd = s.rnd := rfl
@[simp] theorem setSt_launched : (s.setSt b).launched = s.launched := rfl
@[simp] theorem setSt_font : (s.setSt b).font = s.font := rfl
@[simp] theorem setSt_turn : (s.setSt b).turn = s.turn := rfl

end

/-! `State.setMem` -/

section
variable (s : State) (m : Memory)

@[simp] theorem setMem_v : (s.setMem m).v = s.v := rfl
@[simp] theorem setMem_i : (s.setMem m).i = s.i := rfl
@[simp] theorem setMem_pc : (s.setMem m).pc = s.pc := rfl
@[simp] theorem setMem_sp : (s.setMem m).sp = s.sp := rfl
@[simp] theorem setMem_stack : (s.setMem m).stack = s.stack := rfl
@[simp] theorem setMem_dt : (s.setMem m).dt = s.dt := rfl
@[simp] theorem setMem_st : (s.setMem m).st = s.st := rfl
@[simp] theorem setMem_mem : (s.setMem m).mem = m := rfl
@[simp] theorem setMem_fb : (s.setMem m).fb = s.fb := rfl
@[simp] theorem setMem_latch : (s.setMem m).latch = s.latch := rfl
@[simp] theorem setMem_status : (s.setMem m).status = s.status := rfl
@[simp] theorem setMem_keys : (s.setMem m).keys = s.keys := rfl
@[simp] theorem setMem_rnd : (s.setMem m).rnd = s.rnd := rfl
@[simp] theorem setMem_launched : (s.setMem m).launched = s.launched := rfl
@[simp] theorem setMem_font : (s.setMem m).font = s.font := rfl
@[simp] theorem setMem_turn : (s.setMem m).turn = s.turn := rfl

end

/-! `State.setFb` -/

section
variable (s : State) (d : Display)

@[simp] theorem setFb_v : (s.setFb d).v = s.v := rfl
@[simp] theorem setFb_i : (s.setFb d).i = s.i := rfl
@[simp] theorem setFb_pc : (s.setFb d).pc = s.pc := rfl
@[simp] theorem setFb_sp : (s.setFb d).sp = s.sp := rfl
@[simp] theorem setFb_stack : (s.setFb d).stack = s.stack := rfl
@[simp] theorem setFb_dt : (s.setFb d).dt = s.dt := rfl
@[simp] theorem setFb_st : (s.setFb d).st = s.st := rfl
@[simp] theorem setFb_mem : (s.setFb d).mem = s.mem := rfl
@[simp] theorem setFb_fb : (s.setFb d).fb = d := rfl
@[simp] theorem setFb_latch : (s.setFb d).latch = s.latch := rfl
@[simp] theorem setFb_status : (s.setFb d).status = s.status := rfl
@[simp] theorem setFb_keys : (s.setFb d).keys = s.keys := rfl
@[simp] theorem setFb_rnd : (s.setFb d).rnd = s.rnd := rfl
@[simp] theorem setFb_launched : (s.setFb d).launched = s.launched := rfl
@[simp] theorem setFb_font : (s.setFb d).font = s.font := rfl
@[simp] theorem setFb_turn : (s.setFb d).turn = s.turn := rfl

end

/-! `State.jumpTo` -/

section
variable (s : State) (w : Word)

@[simp] theorem jumpTo_v : (s.jumpTo w).v = s.v := rfl
@[simp] theorem jumpTo_i : (s.jumpTo w).i = s.i := rfl
@[simp] theorem jumpTo_pc : (s.jumpTo w).pc = w := rfl
@[simp] theorem jumpTo_sp : (s.jumpTo w).sp = s.sp := rfl
@[simp] theorem jumpTo_stack : (s.jumpTo w).stack = s.stack := rfl
@[simp] theorem jumpTo_dt : (s.jumpTo w).dt = s.dt := rfl
@[simp] theorem jumpTo_st : (s.jumpTo w).st = s.st := rfl
@[simp] theorem jumpTo_mem : (s.jumpTo w).mem = s.mem := rfl
@[simp] theorem jumpTo_fb : (s.jumpTo w).fb = s.fb := rfl
@[simp] theorem jumpTo_latch : (s.jumpTo w).latch = s.latch := rfl
@[simp] theorem jumpTo_status : (s.jumpTo w).status = .ok := rfl
@[simp] theorem jumpTo_keys : (s.jumpTo w).keys = s.keys := rfl
@[simp] theorem jumpTo_rnd : (s.jumpTo w).rnd = s.rnd := rfl
@[simp] theorem jumpTo_launched : (s.jumpTo w).launched = s.launched := rfl
@[simp] theorem jumpTo_font : (s.jumpTo w).font = s.font := rfl
@[simp] theorem jumpTo_turn : (s.jumpTo w).turn = s.turn := rfl

end

/-! `State.advance` -/

section
variable (s : State)

@[simp] theorem advance_v : (s.advance).v = s.v := rfl
@[simp] theorem advance_i : (s.advance).i = s.i := rfl
@[simp] theorem advance_pc : (s.advance).pc = s.pc + 2 := rfl
@[simp] theorem advance_sp : (s.advance).sp = s.sp := rfl
@[simp] theorem advance_stack : (s.advance).stack = s.stack := rfl
@[simp] theorem advance_dt : (s.advance).dt = s.dt := rfl
@[simp] theorem advance_st : (s.advance).st = s.st := rfl
@[simp] theorem advance_mem : (s.advance).mem = s.mem := rfl
@[simp] theorem advance_fb : (s.advance).fb = s.fb := rfl
@[simp] theorem advance_latch : (s.advance).latch = s.latch := rfl
@[simp] theorem advance_status : (s.advance).status = .ok := rfl
@[simp] theorem advance_keys : (s.advance).keys = s.keys := rfl
@[simp] theorem advance_rnd : (s.advance).rnd = s.rnd := rfl
@[simp] theorem advance_launched : (s.advance).launched = s.launched := rfl
@[simp] theorem advance_font : (s.advance).font = s.font := rfl
@[simp] theorem advance_turn : (s.advance).turn = s.turn := rfl

end

/-! `State.skipIf` -/

section
variable (s : State) (c : Bool)

@[simp] theorem skipIf_v : (s.skipIf c).v = s.v := rfl
@[simp] theorem skipIf_i : (s.skipIf c).i = s.i := rfl
@[simp] theorem skipIf_pc : (s.skipIf c).pc = if c then s.pc + 4 else s.pc + 2 := rfl
@[simp] theorem skipIf_sp : (s.skipIf c).sp = s.sp := rfl
@[simp] theorem skipIf_stack : (s.skipIf c).stack = s.stack := rfl
@[simp] theorem skipIf_dt : (s.skipIf c).dt = s.dt := rfl
@[simp] theorem skipIf_st : (s.skipIf c).st = s.st := rfl
@[simp] theorem skipIf_mem : (s.skipIf c).mem = s.mem := rfl
@[simp] theorem skipIf_fb : (s.skipIf c).fb = s.fb := rfl
@[simp] theorem skipIf_latch : (s.skipIf c).latch = s.latch := rfl
@[simp] theorem skipIf_status : (s.skipIf c).status = .ok := rfl
@[simp] theorem skipIf_keys : (s.skipIf c).keys = s.keys := rfl
@[simp] theorem skipIf_rnd : (s.skipIf c).rnd = s.rnd := rfl
@[simp] theorem skipIf_launched : (s.skipIf c).launched = s.launched := rfl
@[simp] theorem skipIf_font : (s.skipIf c).font = s.font := rfl
@[simp] theorem skipIf_turn : (s.skipIf c).turn = s.turn := rfl

end

/-! `State.waitForKey` -/

section
variable (s : State)

@[simp] theorem waitForKey_v : (s.waitForKey).v = s.v := rfl
@[simp] theorem waitForKey_i : (s.waitForKey).i = s.i := rfl
@[simp] theorem waitForKey_pc : (s.waitForKey).pc = s.pc := rfl
@[simp] theorem waitForKey_sp : (s.waitForKey).sp = s.sp := rfl
@[simp] theorem waitForKey_stack : (s.waitForKey).stack = s.stack := rfl
@[simp] theorem waitForKey_dt : (s.waitForKey).dt = s.dt := rfl
@[simp] theorem waitForKey_st : (s.waitForKey).st = s.st := rfl
@[simp] theorem waitForKey_mem : (s.waitForKey).mem = s.mem := rfl
@[simp] theorem waitForKey_fb : (s.waitForKey).fb = s.fb := rfl
@[simp] theorem waitForKey_latch : (s.waitForKey).latch = s.latch := rfl
@[simp] theorem waitForKey_status : (s.waitForKey).status = .waitKey := rfl
@[simp] theorem waitForKey_keys : (s.waitForKey).keys = s.keys := rfl
@[simp] theorem waitForKey_rnd : (s.waitForKey).rnd = s.rnd := rfl
@[simp] theorem waitForKey_launched : (s.waitForKey).launched = s.launched := rfl
@[simp] theorem waitForKey_font : (s.waitForKey).font = s.font := rfl
@[simp] theorem waitForKey_turn : (s.waitForKey).turn = s.turn := rfl

end

/-! `State.takeFault` -/

section
variable (s : State) (c : Cause) (op : Word) (a : FaultAddr)

@[simp] theorem takeFault_v : (s.takeFault c op a).v = s.v := rfl
@[simp] theorem takeFault_i : (s.takeFault c op a).i = s.i := rfl
@[simp] theorem takeFault_pc : (s.takeFault c op a).pc = s.pc := rfl
@[simp] theorem takeFault_sp : (s.takeFault c op a).sp = s.sp := rfl
@[simp] theorem takeFault_stack : (s.takeFault c op a).stack = s.stack := rfl
@[simp] theorem takeFault_dt : (s.takeFault c op a).dt = s.dt := rfl
@[simp] theorem takeFault_st : (s.takeFault c op a).st = s.st := rfl
@[simp] theorem takeFault_mem : (s.takeFault c op a).mem = s.mem := rfl
@[simp] theorem takeFault_fb : (s.takeFault c op a).fb = s.fb := rfl
@[simp] theorem takeFault_latch : (s.takeFault c op a).latch = ⟨true, c, op, s.pc, a⟩ := rfl
@[simp] theorem takeFault_status : (s.takeFault c op a).status = .fault := rfl
@[simp] theorem takeFault_keys : (s.takeFault c op a).keys = s.keys := rfl
@[simp] theorem takeFault_rnd : (s.takeFault c op a).rnd = s.rnd := rfl
@[simp] theorem takeFault_launched : (s.takeFault c op a).launched = s.launched := rfl
@[simp] theorem takeFault_font : (s.takeFault c op a).font = s.font := rfl
@[simp] theorem takeFault_turn : (s.takeFault c op a).turn = s.turn := rfl

end

/-! `State.pushCall` -/

section
variable (s : State) (k : Byte) (h : k.toNat < 16) (r w : Word)

@[simp] theorem pushCall_v : (s.pushCall k h r w).v = s.v := rfl
@[simp] theorem pushCall_i : (s.pushCall k h r w).i = s.i := rfl
@[simp] theorem pushCall_pc : (s.pushCall k h r w).pc = w := rfl
@[simp] theorem pushCall_sp : (s.pushCall k h r w).sp = k := rfl
@[simp] theorem pushCall_stack : (s.pushCall k h r w).stack = s.stack.set k.toNat r h := rfl
@[simp] theorem pushCall_dt : (s.pushCall k h r w).dt = s.dt := rfl
@[simp] theorem pushCall_st : (s.pushCall k h r w).st = s.st := rfl
@[simp] theorem pushCall_mem : (s.pushCall k h r w).mem = s.mem := rfl
@[simp] theorem pushCall_fb : (s.pushCall k h r w).fb = s.fb := rfl
@[simp] theorem pushCall_latch : (s.pushCall k h r w).latch = s.latch := rfl
@[simp] theorem pushCall_status : (s.pushCall k h r w).status = .ok := rfl
@[simp] theorem pushCall_keys : (s.pushCall k h r w).keys = s.keys := rfl
@[simp] theorem pushCall_rnd : (s.pushCall k h r w).rnd = s.rnd := rfl
@[simp] theorem pushCall_launched : (s.pushCall k h r w).launched = s.launched := rfl
@[simp] theorem pushCall_font : (s.pushCall k h r w).font = s.font := rfl
@[simp] theorem pushCall_turn : (s.pushCall k h r w).turn = s.turn := rfl

end

/-! `State.popReturn` -/

section
variable (s : State) (h : s.sp.toNat < 16)

@[simp] theorem popReturn_v : (s.popReturn h).v = s.v := rfl
@[simp] theorem popReturn_i : (s.popReturn h).i = s.i := rfl
@[simp] theorem popReturn_pc : (s.popReturn h).pc = s.stack[s.sp.toNat] := rfl
@[simp] theorem popReturn_sp : (s.popReturn h).sp = s.sp - 1 := rfl
@[simp] theorem popReturn_stack : (s.popReturn h).stack = s.stack := rfl
@[simp] theorem popReturn_dt : (s.popReturn h).dt = s.dt := rfl
@[simp] theorem popReturn_st : (s.popReturn h).st = s.st := rfl
@[simp] theorem popReturn_mem : (s.popReturn h).mem = s.mem := rfl
@[simp] theorem popReturn_fb : (s.popReturn h).fb = s.fb := rfl
@[simp] theorem popReturn_latch : (s.popReturn h).latch = s.latch := rfl
@[simp] theorem popReturn_status : (s.popReturn h).status = .ok := rfl
@[simp] theorem popReturn_keys : (s.popReturn h).keys = s.keys := rfl
@[simp] theorem popReturn_rnd : (s.popReturn h).rnd = s.rnd := rfl
@[simp] theorem popReturn_launched : (s.popReturn h).launched = s.launched := rfl
@[simp] theorem popReturn_font : (s.popReturn h).font = s.font := rfl
@[simp] theorem popReturn_turn : (s.popReturn h).turn = s.turn := rfl

end

/-! `State.loadFirstRegs` -/

section
variable (s : State) (k : Nat)

@[simp] theorem loadFirstRegs_v : (s.loadFirstRegs k).v = loadRegs s.mem s.i.toNat k s.v := rfl
@[simp] theorem loadFirstRegs_i : (s.loadFirstRegs k).i = s.i := rfl
@[simp] theorem loadFirstRegs_pc : (s.loadFirstRegs k).pc = s.pc := rfl
@[simp] theorem loadFirstRegs_sp : (s.loadFirstRegs k).sp = s.sp := rfl
@[simp] theorem loadFirstRegs_stack : (s.loadFirstRegs k).stack = s.stack := rfl
@[simp] theorem loadFirstRegs_dt : (s.loadFirstRegs k).dt = s.dt := rfl
@[simp] theorem loadFirstRegs_st : (s.loadFirstRegs k).st = s.st := rfl
@[simp] theorem loadFirstRegs_mem : (s.loadFirstRegs k).mem = s.mem := rfl
@[simp] theorem loadFirstRegs_fb : (s.loadFirstRegs k).fb = s.fb := rfl
@[simp] theorem loadFirstRegs_latch : (s.loadFirstRegs k).latch = s.latch := rfl
@[simp] theorem loadFirstRegs_status : (s.loadFirstRegs k).status = s.status := rfl
@[simp] theorem loadFirstRegs_keys : (s.loadFirstRegs k).keys = s.keys := rfl
@[simp] theorem loadFirstRegs_rnd : (s.loadFirstRegs k).rnd = s.rnd := rfl
@[simp] theorem loadFirstRegs_launched : (s.loadFirstRegs k).launched = s.launched := rfl
@[simp] theorem loadFirstRegs_font : (s.loadFirstRegs k).font = s.font := rfl
@[simp] theorem loadFirstRegs_turn : (s.loadFirstRegs k).turn = s.turn := rfl

end

/-! `State.setFlagged` -/

section
variable (s : State) (x : Nibble) (f r : Byte)

@[simp] theorem setFlagged_v : (s.setFlagged x f r).v = (s.v.set vf.toNat f vf.isLt).set x.toNat r x.isLt := rfl
@[simp] theorem setFlagged_i : (s.setFlagged x f r).i = s.i := rfl
@[simp] theorem setFlagged_pc : (s.setFlagged x f r).pc = s.pc := rfl
@[simp] theorem setFlagged_sp : (s.setFlagged x f r).sp = s.sp := rfl
@[simp] theorem setFlagged_stack : (s.setFlagged x f r).stack = s.stack := rfl
@[simp] theorem setFlagged_dt : (s.setFlagged x f r).dt = s.dt := rfl
@[simp] theorem setFlagged_st : (s.setFlagged x f r).st = s.st := rfl
@[simp] theorem setFlagged_mem : (s.setFlagged x f r).mem = s.mem := rfl
@[simp] theorem setFlagged_fb : (s.setFlagged x f r).fb = s.fb := rfl
@[simp] theorem setFlagged_latch : (s.setFlagged x f r).latch = s.latch := rfl
@[simp] theorem setFlagged_status : (s.setFlagged x f r).status = s.status := rfl
@[simp] theorem setFlagged_keys : (s.setFlagged x f r).keys = s.keys := rfl
@[simp] theorem setFlagged_rnd : (s.setFlagged x f r).rnd = s.rnd := rfl
@[simp] theorem setFlagged_launched : (s.setFlagged x f r).launched = s.launched := rfl
@[simp] theorem setFlagged_font : (s.setFlagged x f r).font = s.font := rfl
@[simp] theorem setFlagged_turn : (s.setFlagged x f r).turn = s.turn := rfl

end

/-! `State.launch` -/

section
variable (s : State)

@[simp] theorem launch_v : (s.launch).v = s.v := rfl
@[simp] theorem launch_i : (s.launch).i = s.i := rfl
@[simp] theorem launch_pc : (s.launch).pc = s.pc := rfl
@[simp] theorem launch_sp : (s.launch).sp = s.sp := rfl
@[simp] theorem launch_stack : (s.launch).stack = s.stack := rfl
@[simp] theorem launch_dt : (s.launch).dt = s.dt := rfl
@[simp] theorem launch_st : (s.launch).st = s.st := rfl
@[simp] theorem launch_mem : (s.launch).mem = s.mem := rfl
@[simp] theorem launch_fb : (s.launch).fb = s.fb := rfl
@[simp] theorem launch_latch : (s.launch).latch = s.latch := rfl
@[simp] theorem launch_status : (s.launch).status = s.status := rfl
@[simp] theorem launch_keys : (s.launch).keys = s.keys := rfl
@[simp] theorem launch_rnd : (s.launch).rnd = s.rnd := rfl
@[simp] theorem launch_launched : (s.launch).launched = true := rfl
@[simp] theorem launch_font : (s.launch).font = s.font := rfl
@[simp] theorem launch_turn : (s.launch).turn = s.turn := rfl

end

/-! `State.driveKeys` -/

section
variable (s : State) (k : Word)

@[simp] theorem driveKeys_v : (s.driveKeys k).v = s.v := rfl
@[simp] theorem driveKeys_i : (s.driveKeys k).i = s.i := rfl
@[simp] theorem driveKeys_pc : (s.driveKeys k).pc = s.pc := rfl
@[simp] theorem driveKeys_sp : (s.driveKeys k).sp = s.sp := rfl
@[simp] theorem driveKeys_stack : (s.driveKeys k).stack = s.stack := rfl
@[simp] theorem driveKeys_dt : (s.driveKeys k).dt = s.dt := rfl
@[simp] theorem driveKeys_st : (s.driveKeys k).st = s.st := rfl
@[simp] theorem driveKeys_mem : (s.driveKeys k).mem = s.mem := rfl
@[simp] theorem driveKeys_fb : (s.driveKeys k).fb = s.fb := rfl
@[simp] theorem driveKeys_latch : (s.driveKeys k).latch = s.latch := rfl
@[simp] theorem driveKeys_status : (s.driveKeys k).status = s.status := rfl
@[simp] theorem driveKeys_keys : (s.driveKeys k).keys = k := rfl
@[simp] theorem driveKeys_rnd : (s.driveKeys k).rnd = s.rnd := rfl
@[simp] theorem driveKeys_launched : (s.driveKeys k).launched = s.launched := rfl
@[simp] theorem driveKeys_font : (s.driveKeys k).font = s.font := rfl
@[simp] theorem driveKeys_turn : (s.driveKeys k).turn = s.turn := rfl

end

/-! `State.driveRnd` -/

section
variable (s : State) (r : Byte)

@[simp] theorem driveRnd_v : (s.driveRnd r).v = s.v := rfl
@[simp] theorem driveRnd_i : (s.driveRnd r).i = s.i := rfl
@[simp] theorem driveRnd_pc : (s.driveRnd r).pc = s.pc := rfl
@[simp] theorem driveRnd_sp : (s.driveRnd r).sp = s.sp := rfl
@[simp] theorem driveRnd_stack : (s.driveRnd r).stack = s.stack := rfl
@[simp] theorem driveRnd_dt : (s.driveRnd r).dt = s.dt := rfl
@[simp] theorem driveRnd_st : (s.driveRnd r).st = s.st := rfl
@[simp] theorem driveRnd_mem : (s.driveRnd r).mem = s.mem := rfl
@[simp] theorem driveRnd_fb : (s.driveRnd r).fb = s.fb := rfl
@[simp] theorem driveRnd_latch : (s.driveRnd r).latch = s.latch := rfl
@[simp] theorem driveRnd_status : (s.driveRnd r).status = s.status := rfl
@[simp] theorem driveRnd_keys : (s.driveRnd r).keys = s.keys := rfl
@[simp] theorem driveRnd_rnd : (s.driveRnd r).rnd = r := rfl
@[simp] theorem driveRnd_launched : (s.driveRnd r).launched = s.launched := rfl
@[simp] theorem driveRnd_font : (s.driveRnd r).font = s.font := rfl
@[simp] theorem driveRnd_turn : (s.driveRnd r).turn = s.turn := rfl

end

/-! `State.tickDt` -/

section
variable (s : State)

@[simp] theorem tickDt_v : (s.tickDt).v = s.v := rfl
@[simp] theorem tickDt_i : (s.tickDt).i = s.i := rfl
@[simp] theorem tickDt_pc : (s.tickDt).pc = s.pc := rfl
@[simp] theorem tickDt_sp : (s.tickDt).sp = s.sp := rfl
@[simp] theorem tickDt_stack : (s.tickDt).stack = s.stack := rfl
@[simp] theorem tickDt_dt : (s.tickDt).dt = tick s.dt := rfl
@[simp] theorem tickDt_st : (s.tickDt).st = s.st := rfl
@[simp] theorem tickDt_mem : (s.tickDt).mem = s.mem := rfl
@[simp] theorem tickDt_fb : (s.tickDt).fb = s.fb := rfl
@[simp] theorem tickDt_latch : (s.tickDt).latch = s.latch := rfl
@[simp] theorem tickDt_status : (s.tickDt).status = s.status := rfl
@[simp] theorem tickDt_keys : (s.tickDt).keys = s.keys := rfl
@[simp] theorem tickDt_rnd : (s.tickDt).rnd = s.rnd := rfl
@[simp] theorem tickDt_launched : (s.tickDt).launched = s.launched := rfl
@[simp] theorem tickDt_font : (s.tickDt).font = s.font := rfl
@[simp] theorem tickDt_turn : (s.tickDt).turn = s.turn := rfl

end

/-! `State.tickSt` -/

section
variable (s : State)

@[simp] theorem tickSt_v : (s.tickSt).v = s.v := rfl
@[simp] theorem tickSt_i : (s.tickSt).i = s.i := rfl
@[simp] theorem tickSt_pc : (s.tickSt).pc = s.pc := rfl
@[simp] theorem tickSt_sp : (s.tickSt).sp = s.sp := rfl
@[simp] theorem tickSt_stack : (s.tickSt).stack = s.stack := rfl
@[simp] theorem tickSt_dt : (s.tickSt).dt = s.dt := rfl
@[simp] theorem tickSt_st : (s.tickSt).st = tick s.st := rfl
@[simp] theorem tickSt_mem : (s.tickSt).mem = s.mem := rfl
@[simp] theorem tickSt_fb : (s.tickSt).fb = s.fb := rfl
@[simp] theorem tickSt_latch : (s.tickSt).latch = s.latch := rfl
@[simp] theorem tickSt_status : (s.tickSt).status = s.status := rfl
@[simp] theorem tickSt_keys : (s.tickSt).keys = s.keys := rfl
@[simp] theorem tickSt_rnd : (s.tickSt).rnd = s.rnd := rfl
@[simp] theorem tickSt_launched : (s.tickSt).launched = s.launched := rfl
@[simp] theorem tickSt_font : (s.tickSt).font = s.font := rfl
@[simp] theorem tickSt_turn : (s.tickSt).turn = s.turn := rfl

end

/-! `State.driverTurn` -/

section
variable (s : State)

@[simp] theorem driverTurn_v : (s.driverTurn).v = s.v := rfl
@[simp] theorem driverTurn_i : (s.driverTurn).i = s.i := rfl
@[simp] theorem driverTurn_pc : (s.driverTurn).pc = s.pc := rfl
@[simp] theorem driverTurn_sp : (s.driverTurn).sp = s.sp := rfl
@[simp] theorem driverTurn_stack : (s.driverTurn).stack = s.stack := rfl
@[simp] theorem driverTurn_dt : (s.driverTurn).dt = ticks (Config.dtTicks s.turn) s.dt := rfl
@[simp] theorem driverTurn_st : (s.driverTurn).st = ticks (Config.stTicks s.turn) s.st := rfl
@[simp] theorem driverTurn_mem : (s.driverTurn).mem = s.mem := rfl
@[simp] theorem driverTurn_fb : (s.driverTurn).fb = s.fb := rfl
@[simp] theorem driverTurn_latch : (s.driverTurn).latch = s.latch := rfl
@[simp] theorem driverTurn_status : (s.driverTurn).status = s.status := rfl
@[simp] theorem driverTurn_keys : (s.driverTurn).keys = Config.keys s.turn := rfl
@[simp] theorem driverTurn_rnd : (s.driverTurn).rnd = Config.rnd s.turn := rfl
@[simp] theorem driverTurn_launched : (s.driverTurn).launched = s.launched := rfl
@[simp] theorem driverTurn_font : (s.driverTurn).font = s.font := rfl
@[simp] theorem driverTurn_turn : (s.driverTurn).turn = s.turn + 1 := rfl

end

/-! `State.assertReset` -/

section
variable (s : State)

@[simp] theorem assertReset_v : (s.assertReset).v = State.reset.v := rfl
@[simp] theorem assertReset_i : (s.assertReset).i = State.reset.i := rfl
@[simp] theorem assertReset_pc : (s.assertReset).pc = State.reset.pc := rfl
@[simp] theorem assertReset_sp : (s.assertReset).sp = State.reset.sp := rfl
@[simp] theorem assertReset_stack : (s.assertReset).stack = State.reset.stack := rfl
@[simp] theorem assertReset_dt : (s.assertReset).dt = State.reset.dt := rfl
@[simp] theorem assertReset_st : (s.assertReset).st = State.reset.st := rfl
@[simp] theorem assertReset_mem : (s.assertReset).mem = Memory.writeBytes [] fontBase s.font.toList := rfl
@[simp] theorem assertReset_fb : (s.assertReset).fb = State.reset.fb := rfl
@[simp] theorem assertReset_latch : (s.assertReset).latch = State.reset.latch := rfl
@[simp] theorem assertReset_status : (s.assertReset).status = State.reset.status := rfl
@[simp] theorem assertReset_keys : (s.assertReset).keys = s.keys := rfl
@[simp] theorem assertReset_rnd : (s.assertReset).rnd = s.rnd := rfl
@[simp] theorem assertReset_launched : (s.assertReset).launched = State.reset.launched := rfl
@[simp] theorem assertReset_font : (s.assertReset).font = s.font := rfl
@[simp] theorem assertReset_turn : (s.assertReset).turn = s.turn := rfl

end

end Sys2Proof.Machine
end

