-- ==== Sys2Proof/Laws/Memory.lean ====
section
/-! SUPPORT. The laws of memory: a read after a write, the bytes a block write changes, and that the canonical form is
kept (spec/20_memory.md R62, R67). The read laws hold for every list, canonical or not. -/

namespace Sys2Proof.Machine

theorem read_filter_ne (m : Memory) {a b : Nat} (h : b ≠ a) :
    Memory.read (m.filter (fun c => c.1 ≠ a)) b = m.read b := by
  induction m with
  | nil => rfl
  | cons c m ih =>
    obtain ⟨k, x⟩ := c
    by_cases hk : k = a
    · subst hk
      simp only [List.filter_cons, ne_eq, not_true_eq_false, decide_false]
      rw [if_neg (by decide), ih, Memory.read, if_neg h]
    · simp only [List.filter_cons, ne_eq, hk, not_false_eq_true, decide_true, if_true, Memory.read] at ih ⊢
      rw [ih]

theorem read_filter_self (m : Memory) (a : Nat) :
    Memory.read (m.filter (fun c => c.1 ≠ a)) a = unlisted a := by
  induction m with
  | nil => rfl
  | cons c m ih =>
    obtain ⟨k, x⟩ := c
    by_cases hk : k = a
    · subst hk
      simp only [List.filter_cons, ne_eq, not_true_eq_false, decide_false] at ih ⊢
      rw [if_neg (by decide), ih]
    · simp only [List.filter_cons, ne_eq, hk, not_false_eq_true, decide_true, if_true, Memory.read] at ih ⊢
      rw [if_neg (fun h => hk h.symm), ih]

theorem read_insert_ne (m : Memory) {a b : Nat} (x : Byte) (h : b ≠ a) :
    Memory.read (Memory.insert m a x) b = m.read b := by
  induction m with
  | nil => simp [Memory.insert, Memory.read, h]
  | cons c m ih =>
    obtain ⟨k, y⟩ := c
    simp only [Memory.insert]
    split
    · rw [Memory.read, if_neg h]
    · simp only [Memory.read, ih]

theorem read_insert_self (m : Memory) (a : Nat) (x : Byte) (h : ∀ c ∈ m, c.1 ≠ a) :
    Memory.read (Memory.insert m a x) a = x := by
  induction m with
  | nil => simp [Memory.insert, Memory.read]
  | cons c m ih =>
    obtain ⟨k, y⟩ := c
    have hk : k ≠ a := h (k, y) (by simp)
    simp only [Memory.insert]
    split
    · simp [Memory.read]
    · rw [Memory.read, if_neg (fun e => hk e.symm)]
      exact ih (fun c hc => h c (by simp [hc]))

/-- A read after a write: the written cell, and every other cell as before (R67). -/
@[simp] theorem read_write (m : Memory) (a b : Nat) (x : Byte) :
    Memory.read (m.write a x) b = if b = a then x else m.read b := by
  unfold Memory.write
  by_cases hb : b = a
  · subst hb
    split
    · rename_i hx
      rw [read_filter_self, if_pos rfl, hx]
    · rw [if_pos rfl, read_insert_self]
      intro c hc
      simpa using (List.mem_filter.mp hc).2
  · rw [if_neg hb]
    split
    · exact read_filter_ne m hb
    · rw [read_insert_ne _ _ hb, read_filter_ne m hb]

/-- What a block write leaves: its bytes in ascending order, and every other cell as before. -/
theorem read_writeBytes (m : Memory) (a b : Nat) (xs : List Byte) :
    Memory.read (m.writeBytes a xs) b
      = if a ≤ b ∧ b < a + xs.length then xs.getD (b - a) 0 else m.read b := by
  induction xs generalizing m a with
  | nil =>
    rw [if_neg (by simp)]
    rfl
  | cons x xs ih =>
    rw [Memory.writeBytes, ih, read_write]
    simp only [List.length_cons]
    rcases Nat.lt_trichotomy b a with h | h | h
    · rw [if_neg (by omega), if_neg (by omega), if_neg (by omega)]
    · subst h
      simp
    · obtain ⟨d, rfl⟩ : ∃ d, b = a + 1 + d := ⟨b - a - 1, by omega⟩
      by_cases hd : d < xs.length
      · rw [if_pos (by omega), if_pos (by omega)]
        have e1 : a + 1 + d - (a + 1) = d := by omega
        have e2 : a + 1 + d - a = d + 1 := by omega
        simp [e1, e2]
      · rw [if_neg (by omega), if_neg (by omega), if_neg (by omega)]

theorem wfFrom_mono {lo lo' : Nat} (h : lo' ≤ lo) (m : Memory) (hm : Memory.wfFrom lo m = true) :
    Memory.wfFrom lo' m = true := by
  cases m with
  | nil => rfl
  | cons c m =>
    obtain ⟨k, y⟩ := c
    simp only [Memory.wfFrom, Bool.and_eq_true, decide_eq_true_eq] at hm ⊢
    exact ⟨⟨⟨by omega, hm.1.1.2⟩, hm.1.2⟩, hm.2⟩

theorem wfFrom_filter (p : Host.Cell → Bool) (lo : Nat) (m : Memory) (hm : Memory.wfFrom lo m = true) :
    Memory.wfFrom lo (m.filter p) = true := by
  induction m generalizing lo with
  | nil => rfl
  | cons c m ih =>
    obtain ⟨k, y⟩ := c
    simp only [Memory.wfFrom, Bool.and_eq_true, decide_eq_true_eq] at hm
    rw [List.filter_cons]
    split
    · simp only [Memory.wfFrom, Bool.and_eq_true, decide_eq_true_eq]
      exact ⟨hm.1, ih _ hm.2⟩
    · exact wfFrom_mono (by omega) _ (ih _ hm.2)

theorem wfFrom_insert (lo a : Nat) (x : Byte) (m : Memory) (hlo : lo ≤ a) (ha : a < Config.memSize)
    (hx : x ≠ unlisted a) (hne : ∀ c ∈ m, c.1 ≠ a) (hm : Memory.wfFrom lo m = true) :
    Memory.wfFrom lo (Memory.insert m a x) = true := by
  induction m generalizing lo with
  | nil => simp [Memory.insert, Memory.wfFrom, hlo, ha, hx]
  | cons c m ih =>
    obtain ⟨k, y⟩ := c
    have hk : k ≠ a := hne (k, y) (by simp)
    simp only [Memory.wfFrom, Bool.and_eq_true, decide_eq_true_eq] at hm
    simp only [Memory.insert]
    split
    · rename_i hak
      simp only [Memory.wfFrom, Bool.and_eq_true, decide_eq_true_eq, bne_iff_ne]
      refine ⟨⟨⟨hlo, ha⟩, hx⟩, ⟨⟨⟨by omega, hm.1.1.2⟩, ?_⟩, hm.2⟩⟩
      simpa using hm.1.2
    · simp only [Memory.wfFrom, Bool.and_eq_true, decide_eq_true_eq]
      exact ⟨hm.1, ih (k + 1) (by omega) (fun c hc => hne c (by simp [hc])) hm.2⟩

/-- A write inside memory keeps the canonical form. -/
theorem write_wf (m : Memory) (a : Nat) (x : Byte) (ha : a < Config.memSize) (hm : m.wf = true) :
    (m.write a x).wf = true := by
  unfold Memory.write Memory.wf at *
  split
  · exact wfFrom_filter _ _ _ hm
  · rename_i hx
    refine wfFrom_insert _ _ _ _ (Nat.zero_le a) ha hx ?_ (wfFrom_filter _ _ _ hm)
    intro c hc
    simpa using (List.mem_filter.mp hc).2

/-- A block write inside memory keeps the canonical form. -/
theorem writeBytes_wf (m : Memory) (a : Nat) (xs : List Byte) (ha : a + xs.length ≤ Config.memSize)
    (hm : m.wf = true) : (m.writeBytes a xs).wf = true := by
  induction xs generalizing m a with
  | nil => exact hm
  | cons x xs ih =>
    simp only [List.length_cons] at ha
    exact ih (m.write a x) (a + 1) (by omega) (write_wf m a x (by omega) hm)

/-- Below the first address of a canonical form every cell reads as after reset. -/
theorem wfFrom_read_below (lo : Nat) (m : Memory) (hm : Memory.wfFrom lo m = true) {a : Nat} (ha : a < lo) :
    m.read a = unlisted a := by
  induction m generalizing lo with
  | nil => rfl
  | cons c m ih =>
    obtain ⟨k, y⟩ := c
    simp only [Memory.wfFrom, Bool.and_eq_true, decide_eq_true_eq] at hm
    rw [Memory.read, if_neg (by omega)]
    exact ih (k + 1) hm.2 (by omega)

/-- Equal memories are equal data: two canonical forms that read the same are the same list. -/
theorem wfFrom_ext (lo : Nat) (m m' : Memory) (hm : Memory.wfFrom lo m = true) (hm' : Memory.wfFrom lo m' = true)
    (h : ∀ a, m.read a = m'.read a) : m = m' := by
  induction m generalizing lo m' with
  | nil =>
    cases m' with
    | nil => rfl
    | cons c m' =>
      obtain ⟨k, y⟩ := c
      simp only [Memory.wfFrom, Bool.and_eq_true, bne_iff_ne] at hm'
      have hk := h k
      rw [Memory.read, Memory.read, if_pos rfl] at hk
      exact absurd hk.symm hm'.1.2
  | cons c m ih =>
    obtain ⟨k, x⟩ := c
    simp only [Memory.wfFrom, Bool.and_eq_true, decide_eq_true_eq, bne_iff_ne] at hm
    cases m' with
    | nil =>
      have hk := h k
      rw [Memory.read, Memory.read, if_pos rfl] at hk
      exact absurd hk hm.1.2
    | cons c' m' =>
      obtain ⟨k', x'⟩ := c'
      simp only [Memory.wfFrom, Bool.and_eq_true, decide_eq_true_eq, bne_iff_ne] at hm'
      have hkk : k = k' := by
        rcases Nat.lt_trichotomy k k' with hlt | heq | hgt
        · have hk := h k
          rw [Memory.read, if_pos rfl, Memory.read, if_neg (by omega),
            wfFrom_read_below _ _ hm'.2 (by omega)] at hk
          exact absurd hk hm.1.2
        · exact heq
        · have hk := h k'
          rw [Memory.read, if_neg (by omega), wfFrom_read_below _ _ hm.2 (by omega), Memory.read,
            if_pos rfl] at hk
          exact absurd hk.symm hm'.1.2
      subst hkk
      have hx := h k
      simp only [Memory.read, if_true] at hx
      subst hx
      have hrest : m = m' := by
        refine ih (k + 1) m' hm.2 hm'.2 (fun a => ?_)
        by_cases ha : a = k
        · subst ha
          rw [wfFrom_read_below _ _ hm.2 (by omega), wfFrom_read_below _ _ hm'.2 (by omega)]
        · have hr := h a
          simpa only [Memory.read, if_neg ha] using hr
      rw [hrest]

/-- The memory after reset is in canonical form. -/
theorem reset_mem_wf : State.reset.mem.wf = true := rfl

end Sys2Proof.Machine
end

