-- ==== Sys2Proof/Laws/Ops.lean ====
section
/-! SUPPORT. One lemma per shared operation that says everything it can do. -/

namespace Sys2Proof.Machine

/-! Registers -/

@[simp] theorem getV_setV (s : State) (x y : Nibble) (b : Byte) :
    (s.setV x b).getV y = if y = x then b else s.getV y := by
  simp [State.setV, State.getV, Vector.getElem_set, ← BitVec.toNat_inj, eq_comm]

@[simp] theorem getV_setFlagged (s : State) (x y : Nibble) (f r : Byte) :
    (s.setFlagged x f r).getV y = if y = x then r else if y = vf then f else s.getV y := by
  simp [State.setFlagged]

/-- Reading a register depends on the register file alone. -/
theorem getV_congr {s t : State} (h : t.v = s.v) (x : Nibble) : t.getV x = s.getV x := by
  simp only [State.getV, h]

@[simp] theorem getV_setI (s : State) (w : Word) (x : Nibble) : (s.setI w).getV x = s.getV x := rfl
@[simp] theorem getV_setDt (s : State) (b : Byte) (x : Nibble) : (s.setDt b).getV x = s.getV x := rfl
@[simp] theorem getV_setSt (s : State) (b : Byte) (x : Nibble) : (s.setSt b).getV x = s.getV x := rfl
@[simp] theorem getV_setMem (s : State) (m : Memory) (x : Nibble) : (s.setMem m).getV x = s.getV x := rfl
@[simp] theorem getV_setFb (s : State) (d : Display) (x : Nibble) : (s.setFb d).getV x = s.getV x := rfl
@[simp] theorem getV_jumpTo (s : State) (w : Word) (x : Nibble) : (s.jumpTo w).getV x = s.getV x := rfl
@[simp] theorem getV_advance (s : State) (x : Nibble) : s.advance.getV x = s.getV x := rfl
@[simp] theorem getV_skipIf (s : State) (c : Bool) (x : Nibble) : (s.skipIf c).getV x = s.getV x := rfl
@[simp] theorem getV_waitForKey (s : State) (x : Nibble) : s.waitForKey.getV x = s.getV x := rfl
@[simp] theorem getV_takeFault (s : State) (c : Cause) (op : Word) (a : FaultAddr) (x : Nibble) :
    (s.takeFault c op a).getV x = s.getV x := rfl
@[simp] theorem getV_pushCall (s : State) (k : Byte) (h : k.toNat < 16) (r w : Word) (x : Nibble) :
    (s.pushCall k h r w).getV x = s.getV x := rfl
@[simp] theorem getV_popReturn (s : State) (h : s.sp.toNat < 16) (x : Nibble) :
    (s.popReturn h).getV x = s.getV x := rfl
@[simp] theorem getV_launch (s : State) (x : Nibble) : s.launch.getV x = s.getV x := rfl
@[simp] theorem getV_driverTurn (s : State) (x : Nibble) : s.driverTurn.getV x = s.getV x := rfl

/-! The range check -/

/-- An access of `n` cells from I on is in range, and the body follows, or it is not, and the fault is taken. -/
theorem withCells_cases (s : State) (op : Word) (n : Nat) (body : State) :
    ((s.i.toNat + n ≤ 4096 ∨ n = 0) ∧ s.withCells op n body = body) ∨
    (4096 < s.i.toNat + n ∧ n ≠ 0 ∧
      s.withCells op n body = s.takeFault .addressOutOfRange op (firstBad s.i)) := by
  unfold State.withCells
  simp only [Config.memSize]
  split
  · exact .inl ⟨‹_›, rfl⟩
  · exact .inr ⟨by omega, by omega, rfl⟩

/-- The reported address is `max(base, 0x1000)`. -/
theorem firstBad_toNat (base : Word) : (firstBad base).toNat = max base.toNat 0x1000 := by
  have h := base.isLt
  unfold firstBad
  split
  · rw [Nat.max_eq_right (by omega)]
    rfl
  · rw [Nat.max_eq_left (by omega), BitVec.toNat_setWidth]
    omega

/-! Blocks of registers -/

theorem getElem_loadRegs (m : Memory) (base k : Nat) (v : Vector Byte 16) (j : Nat) (hj : j < 16) :
    (loadRegs m base k v)[j] = if j < k then m.read (base + j) else v[j] := by
  induction k with
  | zero => simp [loadRegs]
  | succ k ih =>
    simp only [loadRegs, Vector.getElem_setIfInBounds]
    by_cases hkj : k = j
    · subst hkj
      simp
    · rw [if_neg hkj, ih]
      by_cases hlt : j < k
      · rw [if_pos hlt, if_pos (by omega)]
      · rw [if_neg hlt, if_neg (by omega)]

@[simp] theorem getV_loadFirstRegs (s : State) (k : Nat) (z : Nibble) :
    (s.loadFirstRegs k).getV z = if z.toNat < k then s.mem.read (s.i.toNat + z.toNat) else s.getV z := by
  simp only [State.getV, loadFirstRegs_v]
  exact getElem_loadRegs _ _ _ _ _ z.isLt

theorem length_firstRegs (s : State) (k : Nat) (hk : k ≤ 16) : (s.firstRegs k).length = k := by
  simp [State.firstRegs, hk]

theorem getD_firstRegs (s : State) (k : Nat) (z : Nibble) (hz : z.toNat < k) :
    (s.firstRegs k).getD z.toNat 0 = s.getV z := by
  have h16 := z.isLt
  simp [State.firstRegs, State.getV, hz, Vector.getElem?_eq_getElem h16]

/-! Keys -/

/-- The search ends on the least key that is down, or on its bound. -/
theorem leastKeyFrom_spec (keys : Word) (fuel k : Nat) :
    k ≤ leastKeyFrom keys fuel k ∧ leastKeyFrom keys fuel k ≤ k + fuel ∧
    (∀ j, k ≤ j → j < leastKeyFrom keys fuel k → keyDown keys j = false) ∧
    (leastKeyFrom keys fuel k < k + fuel → keyDown keys (leastKeyFrom keys fuel k) = true) := by
  induction fuel generalizing k with
  | zero => exact ⟨le_refl _, le_refl _, fun j h1 h2 => absurd h2 (by simp [leastKeyFrom]; omega), by simp [leastKeyFrom]⟩
  | succ fuel ih =>
    unfold leastKeyFrom
    by_cases hd : keyDown keys k = true
    · rw [if_pos hd]
      exact ⟨le_refl _, by omega, fun j h1 h2 => by omega, fun _ => hd⟩
    · obtain ⟨h1, h2, h3, h4⟩ := ih (k + 1)
      rw [if_neg hd]
      refine ⟨by omega, by omega, fun j hj1 hj2 => ?_, fun h => h4 (by omega)⟩
      rcases Nat.lt_or_ge k j with h | h
      · exact h3 j h hj2
      · have : j = k := by omega
        subst this
        simpa using hd

/-- With a key down, `leastKey` is the least index whose key is down (spec/43_keypad_timers.md R193). -/
theorem leastKey_spec (keys : Word) (h : keys ≠ 0) :
    (leastKey keys).toNat < 16 ∧ keyDown keys (leastKey keys).toNat = true ∧
    ∀ j, j < (leastKey keys).toNat → keyDown keys j = false := by
  obtain ⟨-, h2, h3, h4⟩ := leastKeyFrom_spec keys 15 0
  have he : (leastKey keys).toNat = leastKeyFrom keys 15 0 := by
    rw [leastKey, BitVec.toNat_ofNat, Nat.mod_eq_of_lt (by omega)]
  rw [he]
  refine ⟨by omega, ?_, fun j hj => h3 j (Nat.zero_le j) hj⟩
  rcases Nat.lt_or_ge (leastKeyFrom keys 15 0) 15 with hlt | hge
  · exact h4 hlt
  · have h15 : leastKeyFrom keys 15 0 = 15 := by omega
    rw [h15]
    by_contra hn
    refine h (BitVec.eq_of_getLsbD_eq fun j hj => ?_)
    rcases Nat.lt_or_ge j 15 with hj15 | hj15
    · have := h3 j (Nat.zero_le j) (by omega)
      simpa [keyDown] using this
    · have : j = 15 := by omega
      subst this
      simpa [keyDown] using hn

/-! Timers -/

theorem tick_toNat (t : Byte) : (tick t).toNat = t.toNat - 1 := by
  unfold tick
  split
  · rename_i h
    simp [h]
  · rename_i h
    have h0 : t.toNat ≠ 0 := fun h' => h (BitVec.eq_of_toNat_eq (by simpa using h'))
    have hlt := t.isLt
    have h1 : (1 : Byte).toNat = 1 := rfl
    rw [BitVec.toNat_sub, h1]
    omega

theorem ticks_toNat (n : Nat) (t : Byte) : (ticks n t).toNat = t.toNat - n := by
  unfold ticks
  split
  · rename_i h
    simp [h]
  · have hlt := t.isLt
    rw [BitVec.toNat_ofNat]
    omega

/-- Any number of ticks is that many single ticks (spec/60_exceptions.md R255). -/
theorem ticks_succ (n : Nat) (t : Byte) : ticks (n + 1) t = ticks n (tick t) := by
  apply BitVec.eq_of_toNat_eq
  rw [ticks_toNat, ticks_toNat, tick_toNat]
  omega

@[simp] theorem ticks_zero (t : Byte) : ticks 0 t = t := by
  apply BitVec.eq_of_toNat_eq
  rw [ticks_toNat, Nat.sub_zero]

/-! The framebuffer -/

/-- A pixel write changes exactly the addressed pixel (spec/20_memory.md R67). -/
@[simp] theorem get_put (d : Display) (r r' : Fin 32) (c c' : Fin 64) (p : Bool) :
    Display.get (Display.put d r c p) r' c' = if r' = r ∧ c' = c then p else Display.get d r' c' := by
  simp only [Display.get, Display.put, Fin.getElem_fin, Vector.getElem_set, Fin.ext_iff]
  by_cases hr : r.val = r'.val
  · by_cases hc : c.val = c'.val
    · simp [hr, hc]
    · have hc' : ¬ c'.val = c.val := fun h => hc h.symm
      simp [hr, hc, hc']
  · have hr' : ¬ r'.val = r.val := fun h => hr h.symm
    simp [hr, hr']

theorem get_plot (k : Canvas) (r r' : Fin 32) (c c' : Fin 64) (bit : Bool) :
    Display.get (k.plot r c bit).fb r' c'
      = if r' = r ∧ c' = c then (Display.get k.fb r' c' ^^ bit) else Display.get k.fb r' c' := by
  simp only [Canvas.plot, get_put]
  split
  · rename_i h
    rw [h.1, h.2]
  · rfl

@[simp] theorem get_blank (r : Fin 32) (c : Fin 64) : Display.get Display.blank r c = false := by
  simp [Display.get, Display.blank]

end Sys2Proof.Machine
end

