-- ==== Sys2Proof/Laws/PerInstr.lean ====
section
/-! SUPPORT. The family EncodeFitsRow: the word of a well-formed instruction fits its own row of the opcode map
(spec/30_encoding.md R98). -/

namespace Sys2Proof

/-- The row's condition, bit by bit. -/
theorem fits_of_bits (r : OpRow) (w : Word) (h : ∀ i, i < 16 → (w.getLsbD i && r.mask.getLsbD i) = r.pat.getLsbD i) :
    r.fits w = true := by
  rw [OpRow.fits, beq_iff_eq]
  apply BitVec.eq_of_getLsbD_eq
  intro i hi
  rw [BitVec.getLsbD_and]
  exact h i hi

theorem formatA_fits (op : Nibble) (nnn : Addr) : OpRow.fits ⟨0xF000, formatA op 0⟩ (formatA op nnn) = true := by
  apply fits_of_bits
  intro i hi
  rw [getLsbD_formatA, getLsbD_formatA]
  interval_cases i <;> simp

theorem formatXK_fits (op x : Nibble) (kk : Byte) : OpRow.fits ⟨0xF000, formatXK op 0 0⟩ (formatXK op x kk) = true := by
  apply fits_of_bits
  intro i hi
  rw [getLsbD_formatXK, getLsbD_formatXK]
  interval_cases i <;> simp

theorem formatXYN_fits (op x y n : Nibble) :
    OpRow.fits ⟨0xF000, formatXYN op 0 0 0⟩ (formatXYN op x y n) = true := by
  apply fits_of_bits
  intro i hi
  rw [getLsbD_formatXYN, getLsbD_formatXYN]
  interval_cases i <;> simp

theorem formatXYN_fits_low (op x y n : Nibble) :
    OpRow.fits ⟨0xF00F, formatXYN op 0 0 n⟩ (formatXYN op x y n) = true := by
  apply fits_of_bits
  intro i hi
  rw [getLsbD_formatXYN, getLsbD_formatXYN]
  interval_cases i <;> simp

theorem formatXK_fits_low (op x : Nibble) (kk : Byte) :
    OpRow.fits ⟨0xF0FF, formatXK op 0 kk⟩ (formatXK op x kk) = true := by
  apply fits_of_bits
  intro i hi
  rw [getLsbD_formatXK, getLsbD_formatXK]
  interval_cases i <;> simp

namespace Laws.EncodeFitsRow

/-- The instruction's word fits the instruction's row of the opcode map. -/
def Statement (i : Instr) : Prop :=
  i.wellFormed = true → ∃ r, opRows[i.row]? = some r ∧ r.fits (encode i) = true

theorem cls : Statement .cls := fun _ => ⟨_, rfl, by decide⟩
theorem ret : Statement .ret := fun _ => ⟨_, rfl, by decide⟩
theorem sys (nnn : Addr) : Statement (.sys nnn) := fun _ => ⟨_, rfl, formatA_fits 0x0 nnn⟩
theorem jp (nnn : Addr) : Statement (.jp nnn) := fun _ => ⟨_, rfl, formatA_fits 0x1 nnn⟩
theorem call (nnn : Addr) : Statement (.call nnn) := fun _ => ⟨_, rfl, formatA_fits 0x2 nnn⟩
theorem seImm (x : Nibble) (kk : Byte) : Statement (.seImm x kk) := fun _ => ⟨_, rfl, formatXK_fits 0x3 x kk⟩
theorem sneImm (x : Nibble) (kk : Byte) : Statement (.sneImm x kk) := fun _ => ⟨_, rfl, formatXK_fits 0x4 x kk⟩
theorem seReg (x y z : Nibble) : Statement (.seReg x y z) := fun _ => ⟨_, rfl, formatXYN_fits 0x5 x y z⟩
theorem ldImm (x : Nibble) (kk : Byte) : Statement (.ldImm x kk) := fun _ => ⟨_, rfl, formatXK_fits 0x6 x kk⟩
theorem addImm (x : Nibble) (kk : Byte) : Statement (.addImm x kk) := fun _ => ⟨_, rfl, formatXK_fits 0x7 x kk⟩
theorem ldReg (x y : Nibble) : Statement (.ldReg x y) := fun _ => ⟨_, rfl, formatXYN_fits_low 0x8 x y 0x0⟩
theorem orReg (x y : Nibble) : Statement (.orReg x y) := fun _ => ⟨_, rfl, formatXYN_fits_low 0x8 x y 0x1⟩
theorem andReg (x y : Nibble) : Statement (.andReg x y) := fun _ => ⟨_, rfl, formatXYN_fits_low 0x8 x y 0x2⟩
theorem xorReg (x y : Nibble) : Statement (.xorReg x y) := fun _ => ⟨_, rfl, formatXYN_fits_low 0x8 x y 0x3⟩
theorem addReg (x y : Nibble) : Statement (.addReg x y) := fun _ => ⟨_, rfl, formatXYN_fits_low 0x8 x y 0x4⟩
theorem subReg (x y : Nibble) : Statement (.subReg x y) := fun _ => ⟨_, rfl, formatXYN_fits_low 0x8 x y 0x5⟩
theorem shr (x y : Nibble) : Statement (.shr x y) := fun _ => ⟨_, rfl, formatXYN_fits_low 0x8 x y 0x6⟩
theorem subnReg (x y : Nibble) : Statement (.subnReg x y) := fun _ => ⟨_, rfl, formatXYN_fits_low 0x8 x y 0x7⟩
theorem shl (x y : Nibble) : Statement (.shl x y) := fun _ => ⟨_, rfl, formatXYN_fits_low 0x8 x y 0xE⟩
theorem sneReg (x y z : Nibble) : Statement (.sneReg x y z) := fun _ => ⟨_, rfl, formatXYN_fits 0x9 x y z⟩
theorem ldI (nnn : Addr) : Statement (.ldI nnn) := fun _ => ⟨_, rfl, formatA_fits 0xA nnn⟩
theorem jpV0 (nnn : Addr) : Statement (.jpV0 nnn) := fun _ => ⟨_, rfl, formatA_fits 0xB nnn⟩
theorem rnd (x : Nibble) (kk : Byte) : Statement (.rnd x kk) := fun _ => ⟨_, rfl, formatXK_fits 0xC x kk⟩
theorem drw (x y n : Nibble) : Statement (.drw x y n) := fun _ => ⟨_, rfl, formatXYN_fits 0xD x y n⟩
theorem skp (x : Nibble) : Statement (.skp x) := fun _ => ⟨_, rfl, formatXK_fits_low 0xE x 0x9E⟩
theorem sknp (x : Nibble) : Statement (.sknp x) := fun _ => ⟨_, rfl, formatXK_fits_low 0xE x 0xA1⟩
theorem ldVxDt (x : Nibble) : Statement (.ldVxDt x) := fun _ => ⟨_, rfl, formatXK_fits_low 0xF x 0x07⟩
theorem ldVxK (x : Nibble) : Statement (.ldVxK x) := fun _ => ⟨_, rfl, formatXK_fits_low 0xF x 0x0A⟩
theorem ldDtVx (x : Nibble) : Statement (.ldDtVx x) := fun _ => ⟨_, rfl, formatXK_fits_low 0xF x 0x15⟩
theorem ldStVx (x : Nibble) : Statement (.ldStVx x) := fun _ => ⟨_, rfl, formatXK_fits_low 0xF x 0x18⟩
theorem addI (x : Nibble) : Statement (.addI x) := fun _ => ⟨_, rfl, formatXK_fits_low 0xF x 0x1E⟩
theorem ldF (x : Nibble) : Statement (.ldF x) := fun _ => ⟨_, rfl, formatXK_fits_low 0xF x 0x29⟩
theorem ldB (x : Nibble) : Statement (.ldB x) := fun _ => ⟨_, rfl, formatXK_fits_low 0xF x 0x33⟩
theorem stRegs (x : Nibble) : Statement (.stRegs x) := fun _ => ⟨_, rfl, formatXK_fits_low 0xF x 0x55⟩
theorem ldRegs (x : Nibble) : Statement (.ldRegs x) := fun _ => ⟨_, rfl, formatXK_fits_low 0xF x 0x65⟩

end Laws.EncodeFitsRow

end Sys2Proof
end

