-- ==== Sys2Proof/Laws/Step.lean ====
section
/-! SUPPORT. Everything a step can do, said once (spec/60_exceptions.md R262). -/

namespace Sys2Proof.Machine

/-- A step of CORE is one of four things: nothing, while halted; a fetch fault; an invalid opcode; or the execute phase
of the decoded instruction. -/
theorem coreStep_cases (s : State) :
    (s.latch.halted = true ∧ coreStep s = .next { s with status := .fault }) ∨
    (s.latch.halted = false ∧ 0xFFE < s.pc.toNat ∧
      coreStep s = .next (s.launch.takeFault .addressOutOfRange 0 (firstBad s.pc))) ∨
    (s.latch.halted = false ∧ s.pc.toNat ≤ 0xFFE ∧
      ∃ e, decodeWord (wordOfBytes (s.mem.read s.pc.toNat) (s.mem.read (s.pc.toNat + 1))) = .error e ∧
        coreStep s = .next (s.launch.takeFault .invalidOpcode
          (wordOfBytes (s.mem.read s.pc.toNat) (s.mem.read (s.pc.toNat + 1))) 0)) ∨
    (s.latch.halted = false ∧ s.pc.toNat ≤ 0xFFE ∧
      ∃ i, decodeWord (wordOfBytes (s.mem.read s.pc.toNat) (s.mem.read (s.pc.toNat + 1))) = .ok i ∧
        coreStep s = exec i s.launch) := by
  unfold coreStep
  by_cases hh : s.latch.halted = true
  · exact .inl ⟨hh, by rw [if_pos hh]⟩
  · have hf : s.latch.halted = false := by simpa using hh
    rw [if_neg hh]
    refine .inr ?_
    unfold fetchDecodeExecute fetch
    by_cases hpc : s.pc.toNat > 0xFFE
    · exact .inl ⟨hf, hpc, by simp [hpc]⟩
    · have hle : s.pc.toNat ≤ 0xFFE := by omega
      refine .inr ?_
      cases hd : decodeWord (wordOfBytes (s.mem.read s.pc.toNat) (s.mem.read (s.pc.toNat + 1))) with
      | error e => exact .inl ⟨hf, hle, e, rfl, by simp [hpc, hd]⟩
      | ok i => exact .inr ⟨hf, hle, i, rfl, by simp [hpc, hd]⟩

/-- With a legal SP every instruction answers a next state. -/
theorem exec_answers (i : Instr) (s : State) (h : s.sp = 0xFF ∨ s.sp.toNat < 16) : ∃ t, exec i s = .next t := by
  have hcall : ∀ nnn, ∃ t, execCall nnn s = .next t := by
    intro nnn
    unfold execCall
    split
    · exact ⟨_, rfl⟩
    · rename_i h15
      have hk : (s.sp + 1).toNat < 16 := by
        have hne : s.sp.toNat ≠ 15 := fun e => h15 (BitVec.eq_of_toNat_eq e)
        have h1 : (1 : Byte).toNat = 1 := rfl
        rw [BitVec.toNat_add, h1]
        rcases h with h | h
        · rw [h]
          decide
        · omega
      rw [dif_pos hk]
      exact ⟨_, rfl⟩
  have hret : ∃ t, execRet s = .next t := by
    unfold execRet
    split
    · exact ⟨_, rfl⟩
    · rename_i hne
      rw [dif_pos (h.resolve_left hne)]
      exact ⟨_, rfl⟩
  cases i with
  | call nnn => exact hcall nnn
  | ret => exact hret
  | _ => exact ⟨_, rfl⟩

/-- The memory after a reset with any font (spec/10_state.md R40). -/
theorem read_resetWith (font : Font) (a : Nat) :
    (State.resetWith font).mem.read a = if h : a < 80 then font[a] else 0 := by
  have hd : fontData.length = 80 := by simp [fontData]
  simp only [State.resetWith, read_writeBytes, Vector.length_toList, fontBase]
  by_cases h : a < 80
  · rw [if_pos ⟨Nat.zero_le a, by omega⟩, dif_pos h, Nat.sub_zero,
      List.getD_eq_getElem _ _ (by simpa using h)]
    simp
  · rw [if_neg (by omega), dif_neg h]
    exact List.getD_eq_default _ _ (by omega)

/-- The memory after a reset with any font is in canonical form. -/
theorem resetWith_mem_wf (font : Font) : (State.resetWith font).mem.wf = true :=
  writeBytes_wf [] fontBase font.toList (by simp [fontBase, Config.memSize]) rfl

end Sys2Proof.Machine
end

