-- ==== Sys2Proof/Tests/Slice0.lean ====
section
/-! SUPPORT. The model's own tests, on the words and values of spec/95_test_vectors.md and of the rules named, and for
every statement with hypotheses a state and operands that meet them. -/

namespace Sys2Proof.Tests

open Sys2Proof.Machine
open Sys2Proof.Safety

/-! ## Well-formedness -/

/-- R95: the words of CLS and RET are no SYS. -/
theorem test_wf_refuses_sys_of_cls : (Instr.sys 0x0E0).wellFormed = false := by decide
theorem test_wf_refuses_sys_of_ret : (Instr.sys 0x0EE).wellFormed = false := by decide
theorem test_wf_accepts_sys : (Instr.sys 0x0E1).wellFormed = true := by decide

/-! ## Decoding: words written out from spec/30_encoding.md R93 and R98, bit by bit (opcode, fields) -/

theorem test_decode_cls : decodeWord 0b0000000011100000 = .ok .cls := by decide
theorem test_decode_ret : decodeWord 0b0000000011101110 = .ok .ret := by decide
theorem test_decode_sys : decodeWord 0b0000000011101111 = .ok (.sys 0x0EF) := by decide
theorem test_decode_jp : decodeWord 0b0001101010111100 = .ok (.jp 0xABC) := by decide
theorem test_decode_call : decodeWord 0b0010001000001010 = .ok (.call 0x20A) := by decide
theorem test_decode_seImm : decodeWord 0b0011000110000000 = .ok (.seImm 1 0x80) := by decide
theorem test_decode_sneImm : decodeWord 0b0100000100000110 = .ok (.sneImm 1 0x06) := by decide
theorem test_decode_seReg : decodeWord 0b0101000100100111 = .ok (.seReg 1 2 7) := by decide
theorem test_decode_ldImm : decodeWord 0b0110101000101100 = .ok (.ldImm 10 0x2C) := by decide
theorem test_decode_addImm : decodeWord 0b0111001100100000 = .ok (.addImm 3 0x20) := by decide
theorem test_decode_ldReg : decodeWord 0b1000000100100000 = .ok (.ldReg 1 2) := by decide
theorem test_decode_orReg : decodeWord 0b1000000100100001 = .ok (.orReg 1 2) := by decide
theorem test_decode_andReg : decodeWord 0b1000000100100010 = .ok (.andReg 1 2) := by decide
theorem test_decode_xorReg : decodeWord 0b1000000100100011 = .ok (.xorReg 1 2) := by decide
theorem test_decode_addReg : decodeWord 0b1000101010110100 = .ok (.addReg 10 11) := by decide
theorem test_decode_subReg : decodeWord 0b1000000100100101 = .ok (.subReg 1 2) := by decide
theorem test_decode_shr : decodeWord 0b1000010001010110 = .ok (.shr 4 5) := by decide
theorem test_decode_subnReg : decodeWord 0b1000000100100111 = .ok (.subnReg 1 2) := by decide
theorem test_decode_shl : decodeWord 0b1000101010111110 = .ok (.shl 10 11) := by decide
theorem test_decode_sneReg : decodeWord 0b1001000100101111 = .ok (.sneReg 1 2 15) := by decide
theorem test_decode_ldI : decodeWord 0b1010001011110000 = .ok (.ldI 0x2F0) := by decide
theorem test_decode_jpV0 : decodeWord 0b1011001100000000 = .ok (.jpV0 0x300) := by decide
theorem test_decode_rnd : decodeWord 0b1100010100001111 = .ok (.rnd 5 0x0F) := by decide
theorem test_decode_drw : decodeWord 0b1101000000010101 = .ok (.drw 0 1 5) := by decide
theorem test_decode_skp : decodeWord 0b1110000110011110 = .ok (.skp 1) := by decide
theorem test_decode_sknp : decodeWord 0b1110111110100001 = .ok (.sknp 15) := by decide
theorem test_decode_ldVxDt : decodeWord 0b1111001000000111 = .ok (.ldVxDt 2) := by decide
theorem test_decode_ldVxK : decodeWord 0b1111000100001010 = .ok (.ldVxK 1) := by decide
theorem test_decode_ldDtVx : decodeWord 0b1111000000010101 = .ok (.ldDtVx 0) := by decide
theorem test_decode_ldStVx : decodeWord 0b1111000000011000 = .ok (.ldStVx 0) := by decide
theorem test_decode_addI : decodeWord 0b1111001000011110 = .ok (.addI 2) := by decide
theorem test_decode_ldF : decodeWord 0b1111000000101001 = .ok (.ldF 0) := by decide
theorem test_decode_ldB : decodeWord 0b1111001100110011 = .ok (.ldB 3) := by decide
theorem test_decode_stRegs : decodeWord 0b1111001001010101 = .ok (.stRegs 2) := by decide
theorem test_decode_ldRegs : decodeWord 0b1111001001100101 = .ok (.ldRegs 2) := by decide

/-- T-DEC-5: the low nibbles 8 to D and F of the 8-group. -/
theorem test_decode_invalid_8_group :
    decodeWord 0x8AB8 = .error (.invalid8Group 0x8AB8) ∧ decodeWord 0x8ABD = .error (.invalid8Group 0x8ABD) ∧
    decodeWord 0x8ABF = .error (.invalid8Group 0x8ABF) := by decide

/-- T-DEC-10. -/
theorem test_decode_invalid_E_group :
    decodeWord 0xE09F = .error (.invalidEGroup 0xE09F) ∧ decodeWord 0xE19D = .error (.invalidEGroup 0xE19D) := by decide

/-- T-DEC-12. -/
theorem test_decode_invalid_F_group :
    decodeWord 0xF075 = .error (.invalidFGroup 0xF075) ∧ decodeWord 0xFFFF = .error (.invalidFGroup 0xFFFF) := by decide

/-- T-DEC-14: the byte at the lower address is the more significant one (R63). -/
theorem test_decode_bytes : decodeBytes [0x12, 0x34, 0x56] = .ok (.jp 0x234, [0x56]) := by decide
theorem test_decode_bytes_short : decodeBytes [0x12] = .error .tooShort := by decide
theorem test_encode_bytes : encodeBytes (.jp 0x234) = [0x12, 0x34] := by decide

/-! ## One step: a fetched word on a small state -/

/-- The state with the registers of the list set. -/
def withV (l : List (Nibble × Byte)) (s : State) : State := l.foldl (fun s p => s.setV p.1 p.2) s

/-- The state with bytes stored from `a` on. -/
def withBytes (a : Nat) (xs : List Byte) (s : State) : State := s.setMem (s.mem.writeBytes a xs)

/-- One step of CORE on the state with the opcode stored at PC; the state itself where CORE stops. -/
def after (w : Word) (s : State) : State :=
  match coreStep (s.placeOpcode w) with
  | .next t => t
  | _ => s

/-- T-ALU-1. -/
theorem test_ldImm : let t := after 0x6A2C .reset; t.getV 10 = 0x2C ∧ t.pc = 0x202 := by decide
/-- T-ALU-2: wraps, VF untouched. -/
theorem test_addImm : let t := after 0x7320 (withV [(3, 0xF0), (15, 1)] .reset)
    t.getV 3 = 0x10 ∧ t.getV 15 = 1 := by decide
/-- T-ALU-3: VF as plain destination. -/
theorem test_addImm_vf : (after 0x7FFF (withV [(15, 1)] .reset)).getV 15 = 0 := by decide
/-- T-ALU-4. -/
theorem test_ldReg : (after 0x8120 (withV [(2, 0x7B)] .reset)).getV 1 = 0x7B := by decide
/-- T-ALU-5. -/
theorem test_orReg : let t := after 0x8011 (withV [(0, 0x0F), (1, 0xF0), (15, 1)] .reset)
    t.getV 0 = 0xFF ∧ t.getV 15 = 1 := by decide
/-- T-ALU-6. -/
theorem test_andReg : (after 0x8012 (withV [(0, 0x3C), (1, 0x0F)] .reset)).getV 0 = 0x0C := by decide
/-- T-ALU-7. -/
theorem test_xorReg : (after 0x8013 (withV [(0, 0xFF), (1, 0x0F)] .reset)).getV 0 = 0xF0 := by decide
/-- T-ALU-9 (S1). -/
theorem test_addReg : let t := after 0x8124 (withV [(1, 250), (2, 10)] .reset); t.getV 1 = 4 ∧ t.getV 15 = 1 := by decide
/-- T-ALU-13: with x = 15 the result stays, not the carry. -/
theorem test_addReg_vf : (after 0x8F14 (withV [(15, 0xF0), (1, 0x20)] .reset)).getV 15 = 0x10 := by decide
/-- T-ALU-15 (S2). -/
theorem test_subReg : let t := after 0x8125 (withV [(1, 5), (2, 10), (15, 1)] .reset)
    t.getV 1 = 251 ∧ t.getV 15 = 0 := by decide
/-- T-ALU-17: equal operands give 0, the comparison is strict. -/
theorem test_subReg_equal : let t := after 0x8125 (withV [(1, 7), (2, 7), (15, 1)] .reset)
    t.getV 1 = 0 ∧ t.getV 15 = 0 := by decide
/-- T-ALU-20: y is ignored. -/
theorem test_shr : let t := after 0x8456 (withV [(4, 0x80), (5, 0xFF), (15, 1)] .reset)
    t.getV 4 = 0x40 ∧ t.getV 5 = 0xFF ∧ t.getV 15 = 0 := by decide
/-- T-ALU-21. -/
theorem test_shr_vf : (after 0x8F06 (withV [(15, 0x05)] .reset)).getV 15 = 0x02 := by decide
/-- T-ALU-22, T-ALU-23. -/
theorem test_subnReg : let t := after 0x8127 (withV [(1, 5), (2, 10)] .reset); t.getV 1 = 5 ∧ t.getV 15 = 1 := by decide
theorem test_subnReg_less : let t := after 0x8127 (withV [(1, 10), (2, 5), (15, 1)] .reset)
    t.getV 1 = 0xFB ∧ t.getV 15 = 0 := by decide
/-- T-ALU-25. -/
theorem test_shl : let t := after 0x840E (withV [(4, 0x81)] .reset); t.getV 4 = 0x02 ∧ t.getV 15 = 1 := by decide
/-- T-ALU-28. -/
theorem test_rnd : (after 0xC50F (State.reset.driveRnd 0xB7)).getV 5 = 0x07 := by decide

/-- T-MEM-1. -/
theorem test_ldI : (after 0xA2F0 .reset).i = 0x2F0 := by decide
/-- T-MEM-3: wraps at 65536, VF untouched. -/
theorem test_addI : let t := after 0xF21E (withV [(2, 1), (15, 7)] (State.reset.setI 0xFFFF))
    t.i = 0 ∧ t.getV 15 = 7 := by decide
/-- T-MEM-6: the whole of Vx counts. -/
theorem test_ldF : (after 0xF029 (withV [(0, 0xFF)] .reset)).i = 0x4FB := by decide
/-- T-MEM-7. -/
theorem test_ldB : let t := after 0xF333 (withV [(3, 0xEA)] (State.reset.setI 0x300))
    t.mem = [(0x200, 0xF3), (0x201, 0x33), (0x300, 2), (0x301, 3), (0x302, 4)] ∧ t.i = 0x300 := by decide
/-- T-MEM-10. -/
theorem test_ldB_fault : let t := after 0xF333 (withV [(3, 0xFF)] (State.reset.setI 0xFFE))
    t.latch = ⟨true, .addressOutOfRange, 0xF333, 0x200, 0x1000⟩ ∧ t.mem.read 0xFFE = 0 := by decide
/-- T-MEM-11. -/
theorem test_stRegs : let t := after 0xF255 (withV [(0, 0x11), (1, 0x22), (2, 0x33), (3, 0x44)] (State.reset.setI 0x400))
    t.mem.read 0x402 = 0x33 ∧ t.mem.read 0x403 = 0 ∧ t.i = 0x400 := by decide
/-- T-MEM-14. -/
theorem test_stRegs_fault : (after 0xF055 (State.reset.setI 0x1234)).latch
    = ⟨true, .addressOutOfRange, 0xF055, 0x200, 0x1234⟩ := by decide
/-- T-MEM-15. -/
theorem test_ldRegs : let t := after 0xF265 (withV [(3, 0x99)] (withBytes 0x300 [2, 3, 4, 5] (State.reset.setI 0x300)))
    t.getV 0 = 2 ∧ t.getV 2 = 4 ∧ t.getV 3 = 0x99 ∧ t.i = 0x300 := by decide
/-- T-MEM-17: no wrap to address 0. -/
theorem test_ldRegs_fault : (after 0xF165 (State.reset.setI 0xFFFF)).latch
    = ⟨true, .addressOutOfRange, 0xF165, 0x200, 0xFFFF⟩ := by decide

/-- T-CLS-1. -/
theorem test_cls : let t := after 0x00E0 (withV [(15, 1)] (State.reset.setFb (Display.put Display.blank 31 63 true)))
    Display.get t.fb 31 63 = false ∧ t.getV 15 = 1 := by decide
/-- T-DRW-6: the start position wraps (200 mod 64 = 8, 100 mod 32 = 4). -/
theorem test_drw_wraps :
    let t := after 0xD011 (withV [(0, 200), (1, 100)] (withBytes 0x250 [0x80] (State.reset.setI 0x250)))
    Display.get t.fb 4 8 = true ∧ Display.get t.fb 4 9 = false ∧ t.getV 15 = 0 := by decide
/-- T-DRW-10: the last bit erases a lit pixel. -/
theorem test_drw_collides :
    let t := after 0xD011 (withBytes 0x250 [0x01] ((State.reset.setI 0x250).setFb (Display.put Display.blank 0 7 true)))
    Display.get t.fb 0 7 = false ∧ t.getV 15 = 1 := by decide

/-- T-KEY-1, T-KEY-5. -/
theorem test_skp : (after 0xE19E (withV [(1, 7)] (State.reset.driveKeys 0x0080))).pc = 0x204 := by decide
theorem test_skp_fault : let t := after 0xE19E (withV [(1, 0x10)] .reset)
    t.latch = ⟨true, .keyIndexOutOfRange, 0xE19E, 0x200, 0⟩ ∧ t.pc = 0x200 := by decide
/-- T-KEY-3, T-KEY-4. -/
theorem test_sknp_down : (after 0xE1A1 (withV [(1, 7)] (State.reset.driveKeys 0x0080))).pc = 0x202 := by decide
theorem test_sknp_up : (after 0xE1A1 (withV [(1, 7)] .reset)).pc = 0x204 := by decide
/-- T-KEY-7, T-KEY-8. -/
theorem test_ldVxK_waits : let t := after 0xF10A (withV [(1, 9)] .reset)
    t.status = .waitKey ∧ t.getV 1 = 9 ∧ t.pc = 0x200 := by decide
theorem test_ldVxK_least : (after 0xF10A (State.reset.driveKeys 0x8080)).getV 1 = 7 := by decide
/-- T-TMR-1, T-TMR-2, T-TMR-3. -/
theorem test_ldVxDt : (after 0xF207 (State.reset.setDt 7)).getV 2 = 7 := by decide
theorem test_ldDtVx : (after 0xF015 (withV [(0, 10)] .reset)).dt = 10 := by decide
theorem test_ldStVx : (after 0xF018 (withV [(0, 3)] .reset)).st = 3 := by decide

/-- T-CTL-1. -/
theorem test_jp : (after 0x1204 .reset).pc = 0x204 := by decide
/-- T-CTL-3. -/
theorem test_call : let t := after 0x220A .reset; t.sp = 0 ∧ t.stack[0] = 0x202 ∧ t.pc = 0x20A := by decide
/-- T-CTL-6. -/
theorem test_call_overflow : let s : State := State.reset
    (after 0x2200 { s with sp := 15 }).latch = ⟨true, .stackOverflow, 0x2200, 0x200, 0⟩ := by decide
/-- T-CTL-4. -/
theorem test_ret : let s : State := State.reset
    let t := after 0x00EE { s with sp := 0, stack := s.stack.set 0 0x202, pc := 0x20A }
    t.pc = 0x202 ∧ t.sp = 0xFF ∧ t.stack[0] = 0x202 := by decide
/-- T-CTL-5. -/
theorem test_ret_underflow : (after 0x00EE .reset).latch = ⟨true, .stackUnderflow, 0x00EE, 0x200, 0⟩ := by decide
/-- T-CTL-7, T-CTL-8. -/
theorem test_jpV0 : (after 0xB300 (withV [(0, 4)] .reset)).pc = 0x304 := by decide
theorem test_jpV0_high : (after 0xBFFF (withV [(0, 0xFF)] .reset)).pc = 0x10FE := by decide
/-- T-CTL-9, T-CTL-10, T-CTL-11, T-CTL-12. -/
theorem test_seImm : (after 0x3100 .reset).pc = 0x204 ∧ (after 0x3101 .reset).pc = 0x202 := by decide
theorem test_sneImm : (after 0x4106 .reset).pc = 0x204 ∧ (after 0x4100 .reset).pc = 0x202 := by decide
theorem test_seReg : (after 0x5127 (withV [(1, 0x33), (2, 0x33)] .reset)).pc = 0x204 ∧
    (after 0x5127 (withV [(1, 0x33)] .reset)).pc = 0x202 := by decide
theorem test_sneReg : (after 0x9120 (withV [(1, 0x33), (2, 0x34)] .reset)).pc = 0x204 ∧
    (after 0x9120 .reset).pc = 0x202 := by decide
/-- T-CTL-13. -/
theorem test_sys : (after 0x0123 .reset).pc = 0x202 := by decide

/-- T-FLT-1 (S8). -/
theorem test_invalid_opcode : let t := after 0xFFFF .reset
    t.latch = ⟨true, .invalidOpcode, 0xFFFF, 0x200, 0⟩ ∧ t.status = .fault ∧ t.pc = 0x200 := by decide
/-- T-CTL-2, its second step. -/
theorem test_fetch_fault : let s : State := State.reset
    coreStep { s with pc := 0xFFF }
      = .next { s with pc := 0xFFF, launched := true, status := .fault,
                       latch := ⟨true, .addressOutOfRange, 0, 0xFFF, 0x1000⟩ } := rfl
/-- S9, T-TMR-4. -/
theorem test_tick : tick 2 = 1 ∧ tick 1 = 0 ∧ tick 0 = 0 := by decide
/-- T-TMR-5: 300 ticks of 255. -/
theorem test_ticks : ticks 300 0xFF = 0 ∧ ticks 2 9 = 7 := by decide
/-- R260: the loader's port is closed after the first step. -/
theorem test_loader_closed : let s : State := State.reset
    (s.loadByte 0x300 7).mem.read 0x300 = 7 ∧ ((after 0x0123 s).loadByte 0x300 7).mem.read 0x300 = 0 := by decide
/-- R33: the glyph of 6 is F0 80 F0 90 F0 at 0x01E (T-DRW-1). -/
theorem test_font : (List.range 5).map (fun k => State.reset.mem.read (0x1E + k)) = [0xF0, 0x80, 0xF0, 0x90, 0xF0] := by
  decide
/-- The host's step runs the stored word, whatever the driver's turn is. -/
theorem test_withFetchWord : ∃ t, step (State.reset.withFetchWord 16 0x6A2C) = .next t ∧ t.getV 10 = 0x2C := ⟨_, rfl, rfl⟩

/-! ## The hypotheses of the statements can be met, each clause at a boundary value -/

theorem test_hyp_DecodeOfEncode : (Instr.sys 0x0E1).wellFormed = true ∧ (Instr.drw 15 15 15).wellFormed = true := by decide
theorem test_hyp_EncodeOfDecode : decodeWord 0x8FFE = .ok (.shl 15 15) := by decide
theorem test_hyp_InvalidWords :
    (opTop 0x8008 = 0x8 ∧ opN 0x8008 ∈ ([0x8, 0x9, 0xA, 0xB, 0xC, 0xD, 0xF] : List Nibble)) ∧
    (opTop 0xE09D = 0xE ∧ opKk 0xE09D ∉ ([0x9E, 0xA1] : List Byte)) ∧
    (opTop 0xF066 = 0xF ∧
      opKk 0xF066 ∉ ([0x07, 0x0A, 0x15, 0x18, 0x1E, 0x29, 0x33, 0x55, 0x65] : List Byte)) := by decide

/-- Both cases of the carry (256 and 255), of the two comparisons (greater and equal) and of the dropped bits. -/
theorem test_hyp_flags :
    let s := withV [(1, 0x80), (2, 0x80), (3, 0x7F), (4, 1)] .reset
    ((s.getV 1).toNat + (s.getV 2).toNat > 255 ∧ ¬ (s.getV 1).toNat + (s.getV 3).toNat > 255) ∧
    ((s.getV 1).toNat > (s.getV 3).toNat ∧ ¬ (s.getV 1).toNat > (s.getV 2).toNat) ∧
    ((s.getV 4).getLsbD 0 = true ∧ ¬ (s.getV 1).getLsbD 0 = true) ∧
    ((s.getV 1).getLsbD 7 = true ∧ ¬ (s.getV 3).getLsbD 7 = true) ∧ ((1 : Nibble) ≠ 15) := by decide

theorem test_hyp_RandomInputReachesRndAlone : ∀ (x : Nibble) (kk : Byte), Instr.ldImm 0 1 ≠ .rnd x kk := by
  intro x kk h
  cases h

theorem test_hyp_OnlySixInstructionsWriteFlag : let s : State := State.reset
    exec (.ldImm 14 1) s = .next (s.setV 14 1).advance ∧ writesFlag (.ldImm 14 1) = false ∧
    destinationIsFlag (.ldImm 14 1) = false := ⟨rfl, rfl, rfl⟩

theorem test_hyp_BcdStoresThreeDigits : let s : State := State.reset
    (s.setI 0xFFD).i.toNat + 2 ≤ 0xFFF ∧ 0xFFF < (s.setI 0xFFE).i.toNat + 2 := by decide

/-- The two clauses of the block store and of the block load, at x = 15 and at x = 0. -/
theorem test_hyp_BlockStoreStoresRegisters : let s : State := State.reset
    ((s.setI 0xFF0).i.toNat + (15 : Nibble).toNat ≤ 0xFFF ∧ 0xFFF < (s.setI 0xFF1).i.toNat + (15 : Nibble).toNat) ∧
    ((s.setI 0xFFF).i.toNat + (0 : Nibble).toNat ≤ 0xFFF ∧
      0xFFF < (s.setI 0x1000).i.toNat + (0 : Nibble).toNat) := by decide
theorem test_hyp_BlockLoadLoadsRegisters : let s : State := State.reset
    (s.setI 0xFF0).i.toNat + (15 : Nibble).toNat ≤ 0xFFF ∧ (14 : Nibble).toNat ≤ (14 : Nibble).toNat ∧
    (14 : Nibble).toNat < (15 : Nibble).toNat ∧ 0xFFF < (s.setI 0xFFFF).i.toNat + (0 : Nibble).toNat := by decide

theorem test_hyp_StoreSeenByNextFetch : let s := State.reset.setI 0xFFE
    s.i.toNat + (1 : Nibble).toNat ≤ 0xFFF ∧ (0 : Nibble).toNat < (1 : Nibble).toNat ∧
    ∃ t, exec (.stRegs 1) s = .next t := ⟨by decide, by decide, _, rfl⟩

/-- A one-row sprite on the last byte of memory, at the last column and row: a pixel of it, one that is not of it, and the
last one. -/
theorem test_hyp_DrawClosedForm : let s := withV [(0, 63), (1, 31)] (State.reset.setI 0xFFF)
    (1 ≤ (1 : Nibble).toNat ∧ s.i.toNat + (1 : Nibble).toNat - 1 ≤ 0xFFF) ∧
    ((31 : Fin 32).val = ((s.getV 1).toNat + 0) % 32 ∧ (0 : Fin 64).val = ((s.getV 0).toNat + 1) % 64) ∧
    ((31 : Fin 32).val = ((s.getV 1).toNat + (1 : Nibble).toNat - 1) % 32 ∧
      (6 : Fin 64).val = ((s.getV 0).toNat + 7) % 64) ∧
    (∀ r c : Nat, r < (1 : Nibble).toNat → c < 8 →
      ¬ ((0 : Fin 32).val = ((s.getV 1).toNat + r) % 32 ∧ (0 : Fin 64).val = ((s.getV 0).toNat + c) % 64)) := by
  refine ⟨by decide, by decide, by decide, ?_⟩
  intro r c hr _ h
  have h0 : r = 0 := Nat.lt_one_iff.mp hr
  subst h0
  exact absurd h.1 (by decide)

theorem test_hyp_DrawOutOfRangeRaises : let s : State := State.reset
    ((1 : Nibble).toNat > 0 ∧ (s.setI 0x1000).i.toNat + (1 : Nibble).toNat - 1 > 0xFFF) ∧
    ((15 : Nibble).toNat > 0 ∧ (s.setI 0xFF2).i.toNat + (15 : Nibble).toNat - 1 > 0xFFF) := by decide

theorem test_hyp_DrawTwiceRestoresDisplay : let s := State.reset.setI 0xFF1
    (14 : Nibble) ≠ 15 ∧ s.i.toNat + (15 : Nibble).toNat ≤ 0x1000 := by decide

theorem test_hyp_KeySkipsTestKeyOfVx : let s := withV [(1, 15), (2, 16)] .reset
    (s.getV 1).toNat ≤ 15 ∧ 15 < (s.getV 2).toNat := by decide

theorem test_hyp_KeyWaitTakesLeastKey :
    (State.reset.driveKeys 0).keys = 0 ∧
    ((State.reset.driveKeys 0x8000).keys.getLsbD 15 = true ∧
      ∀ j : Nat, j < 15 → (State.reset.driveKeys 0x8000).keys.getLsbD j = false) ∧
    (State.reset.driveKeys 0x8001).keys.getLsbD 0 = true := by decide

theorem test_hyp_KeysReachThreeInstructions :
    ∀ x : Nibble, Instr.ldVxDt 0 ≠ .skp x ∧ Instr.ldVxDt 0 ≠ .sknp x ∧ Instr.ldVxDt 0 ≠ .ldVxK x := by
  intro x
  exact ⟨nofun, nofun, nofun⟩

/-- SP = 15 (full), 14 and -1 (both may CALL), and every other entry than the one pushed. -/
theorem test_hyp_CallPushesReturnAddress : let s : State := State.reset
    SpLegal { s with sp := 14 } ∧ (14 : Byte) ≠ 15 ∧ SpLegal s ∧ s.sp ≠ 15 ∧ SpLegal { s with sp := 15 } := by decide

theorem test_hyp_ReturnPopsReturnAddress : let s : State := State.reset
    s.sp = 0xFF ∧ ({ s with sp := 15 } : State).sp.toNat ≤ 15 ∧ ({ s with sp := 0 } : State).sp.toNat ≤ 15 := by decide

theorem test_hyp_CallThenReturnComesBack : let s : State := { State.reset with sp := 14 }
    SpLegal s ∧ s.sp ≠ 15 := by decide

theorem test_hyp_IllegalStackPointerStops : let s : State := State.reset
    ¬ SpLegal { s with sp := 16 } ∧ ¬ SpLegal { s with sp := 0xFE } := by decide

theorem test_hyp_SysOnlyAdvances : (0x0E1 : Addr) ≠ 0x0E0 ∧ (0x0E1 : Addr) ≠ 0x0EE := by decide

theorem test_hyp_ProgramCounterPolicy : let s : State := State.reset
    (exec (.jp 0xFFF) s = .next (s.jumpTo 0xFFF) ∧ (s.jumpTo 0xFFF).status = .ok) ∧
    (exec (.ldVxK 0) s = .next s.waitForKey ∧ s.waitForKey.status ≠ .ok) := ⟨⟨rfl, rfl⟩, ⟨rfl, by decide⟩⟩

theorem test_hyp_EachPartHasItsWriters : exec (.ldI 0xFFF) .reset = .next (State.reset.setI 0xFFF).advance :=
  rfl

theorem test_hyp_ExecuteRaisesExactlyTheTablesCause : let s : State := State.reset
    executeCause .ret s ≠ .none ∧ executeCause (.call 0) s = .none ∧ executeCause (.drw 0 0 0) (s.setI 0xFFFF) = .none ∧
    executeCause (.drw 0 0 1) (s.setI 0x1000) = .addressOutOfRange ∧ ∃ t, exec .ret s = .next t :=
  ⟨by decide, by decide, by decide, by decide, _, rfl⟩

theorem test_hyp_StepRunsDecodedInstruction : let s := ({ State.reset with pc := 0xFFE } : State).placeOpcode 0x6A2C
    s.latch.halted = false ∧ s.pc.toNat ≤ 0xFFE ∧
    decodeWord (wordOfBytes (s.mem.read s.pc.toNat) (s.mem.read (s.pc.toNat + 1))) = .ok (.ldImm 10 0x2C) := by decide

theorem test_hyp_FetchIsBigEndianAndChecked : let s : State := State.reset
    ({ s with pc := 0xFFE } : State).pc.toNat ≤ 0xFFE ∧ 0xFFE < ({ s with pc := 0xFFF } : State).pc.toNat ∧
    ({ s with pc := 0xFFF } : State).latch.halted = false := by decide

theorem test_hyp_InvalidOpcodeRaises : let s := State.reset.placeOpcode 0x8008
    s.latch.halted = false ∧ s.pc.toNat ≤ 0xFFE ∧ decodeWord (opcodeAtPc s) = .error (.invalid8Group 0x8008) := by decide

/-- A halted state, as a RET on the empty stack leaves it. -/
theorem test_hyp_HaltedStepDoesNothing : (after 0x00EE .reset).latch.halted = true := by decide

theorem test_hyp_FaultsArePrecise : let s := State.reset.placeOpcode 0x00EE
    s.latch.halted = false ∧ coreStep s = .next (after 0x00EE .reset) ∧ (after 0x00EE .reset).status = .fault :=
  ⟨rfl, rfl, rfl⟩

theorem test_hyp_StepEndsInOneOfThreeWays : let s := State.reset.placeOpcode 0xF00A
    coreStep s = .next (after 0xF00A .reset) ∧ (after 0xF00A .reset).status = .waitKey :=
  ⟨rfl, rfl⟩

theorem test_hyp_StepAlwaysAnswers : let s : State := State.reset
    SpLegal s ∧ SpLegal { s with sp := 0 } ∧ SpLegal { s with sp := 15 } := by decide

theorem test_hyp_OnlyResetClearsLatch : let s := (after 0x00EE .reset).setDt 3
    s.latch.halted = true ∧ Event.assertReset ∉ [Event.step, .tickDt] ∧
    runEvents [.step, .tickDt] s = .next (s.setDt 2) := ⟨rfl, by decide, rfl⟩

theorem test_hyp_FinishedIsFixedPoint : let s := State.reset.placeOpcode 0x1200
    Finished s ∧ s.latch.halted = false := ⟨⟨by decide, by decide⟩, by decide⟩

/-- A font other than the default. -/
def otherFont : Font := Vector.replicate 80 0xAA

/-- R280 with R33: after a launch with another font a reset puts that font back, not the default one. -/
theorem test_reset_restores_font :
    ((State.resetWith otherFont).setMem []).assertReset.mem.read 0 = 0xAA ∧ State.reset.assertReset.mem.read 0 = 0xF0 := by
  decide +kernel

/-- A step and a tick go on from any state with an empty stack. -/
theorem test_step_then_tick (s : State) (h : s.sp = 0xFF) : ∃ t, runEvents [.step, .tickDt] s = .next t := by
  rcases coreStep_cases s with ⟨-, e⟩ | ⟨-, -, e⟩ | ⟨-, -, _, -, e⟩ | ⟨-, -, i, -, e⟩
  · exact ⟨_, by rw [runEvents, Event.apply, e]; rfl⟩
  · exact ⟨_, by rw [runEvents, Event.apply, e]; rfl⟩
  · exact ⟨_, by rw [runEvents, Event.apply, e]; rfl⟩
  · obtain ⟨t, ht⟩ := exec_answers i s.launch (.inl h)
    exact ⟨_, by rw [runEvents, Event.apply, e, ht]; rfl⟩

theorem test_hyp_EveryResetRestoresTheFont :
    ∃ s, launchState otherFont [0x60, 0x01] = some s ∧ ∃ t, runEvents [.step, .tickDt] s = .next t :=
  ⟨_, rfl, test_step_then_tick _ rfl⟩

theorem test_hyp_LaunchStateHoldsImage :
    (List.replicate 3584 (0x12 : Byte)).length ≤ 3584 ∧ 3584 < (List.replicate 3585 (0x12 : Byte)).length := by
  simp only [List.length_replicate]
  decide

theorem test_hyp_LoaderClosedByFirstStep : let s : State := State.reset
    s.launched = false ∧ s.latch.halted = false ∧ ∃ t, coreStep s = .next t := ⟨rfl, rfl, _, rfl⟩

/-- A running state at the bounds: a full stack of the highest return addresses, the highest target, a byte in memory. -/
def busy : State :=
  { State.reset with
    sp := 15, pc := 0x10FE, stack := Vector.replicate 16 0x1000, mem := [(0x200, 0x12), (0xFFF, 0x34)], launched := true }

/-- A halted state. -/
def halted : State := { busy with status := .fault, latch := ⟨true, .addressOutOfRange, 0, 0x10FE, 0x10FE⟩ }

/-- Every return address of `busy` is 0x1000. -/
theorem test_busy_stack : ∀ w ∈ busy.stack.toList, w.toNat ≤ 0x1000 := by
  intro w hw
  have h : busy.stack.toList = List.replicate 16 0x1000 := rfl
  rw [h] at hw
  rw [List.eq_of_mem_replicate hw]
  decide

theorem test_hyp_inv_busy : Inv busy where
  mem := by decide
  sp := by decide
  latch := by decide
  targets := ⟨by decide, test_busy_stack⟩

theorem test_hyp_inv_halted : Inv halted where
  mem := by decide
  sp := by decide
  latch := by decide
  targets := ⟨by decide, test_busy_stack⟩

/-- The hypotheses of StepKeepsInvariant together. -/
theorem test_hyp_StepKeepsInvariant : Inv busy ∧ ∃ t, step busy = .next t := ⟨test_hyp_inv_busy, _, rfl⟩

/-- The invariant says something: these states break it. -/
theorem test_inv_refuses : ¬ SpLegal { busy with sp := 16 } ∧
    ({ busy with mem := [(0x200, 0)] } : State).mem.wf = false ∧
    ¬ LatchConsistent { busy with status := .fault } := by decide

end Sys2Proof.Tests
end

section
namespace Sys2Proof.Proofs

open Sys2Proof.Machine
open Sys2Proof.Safety

/-! What an instruction can do, said once (spec/00_scope.md R13; spec/60_exceptions.md R245, R262): it completes, waits for
a key, or raises a fault. -/

/-- Where control goes when an instruction completes: PC, SP and the call stack (the policy of spec/44_control.md R210,
with the bound that R214 gives the targets). -/
inductive Flow (s t : State) : Prop where
  | advances (sp : t.sp = s.sp) (stack : t.stack = s.stack) (pc : t.pc = s.pc + 2)
  | skips (sp : t.sp = s.sp) (stack : t.stack = s.stack) (pc : t.pc = s.pc + 4)
  | jumps (sp : t.sp = s.sp) (stack : t.stack = s.stack) (pc : t.pc.toNat ≤ 0x10FE)
  | calls (h : (s.sp + 1).toNat < 16) (sp : t.sp = s.sp + 1)
      (stack : t.stack = s.stack.set (s.sp + 1).toNat (s.pc + 2) h) (pc : t.pc.toNat ≤ 0xFFF)
  | returns (h : s.sp.toNat < 16) (sp : t.sp = s.sp - 1) (stack : t.stack = s.stack)
      (pc : t.pc = s.stack[s.sp.toNat])

/-- An instruction that completes ends with OK, leaves the latch, the font and the input ports, and stores at most one
block of bytes, inside memory. -/
structure Completes (s t : State) : Prop where
  status : t.status = .ok
  latch : t.latch = s.latch
  font : t.font = s.font
  inputs : Part.inputs.kept s t
  mem : ∃ (a : Nat) (xs : List Byte), a + xs.length ≤ Config.memSize ∧ t.mem = s.mem.writeBytes a xs
  flow : Flow s t

/-- The address a fault reports is above 0xFFF for AddressOutOfRange and 0 for any other cause
(spec/60_exceptions.md R244, R245). -/
def AddrFits (c : Cause) (addr : FaultAddr) : Prop :=
  (c = .addressOutOfRange → 0x1000 ≤ addr.toNat) ∧ (c ≠ .addressOutOfRange → addr = 0)

/-- The three ends of an instruction (spec/00_scope.md R13). -/
inductive Ends (i : Instr) (s : State) : State → Prop where
  | completes {t : State} (h : Completes s t) : Ends i s t
  | waits (x : Nibble) (hi : i = .ldVxK x) (hk : s.keys = 0) : Ends i s s.waitForKey
  | faults (c : Cause) (addr : FaultAddr) (hc : c ≠ .none) (ha : AddrFits c addr) :
      Ends i s (s.takeFault c (encode i) addr)

theorem addrFits_zero {c : Cause} (h : c ≠ .addressOutOfRange) : AddrFits c 0 := ⟨fun e => absurd e h, fun _ => rfl⟩

theorem addrFits_firstBad (base : Word) : AddrFits .addressOutOfRange (firstBad base) :=
  ⟨fun _ => by rw [firstBad_toNat]; omega, fun h => absurd rfl h⟩

/-- No byte stored is a block of no bytes. -/
theorem storesNothing {m m' : Memory} (h : m' = m) :
    ∃ (a : Nat) (xs : List Byte), a + xs.length ≤ Config.memSize ∧ m' = m.writeBytes a xs :=
  ⟨0, [], Nat.zero_le _, h⟩

theorem completes_skipIf (s : State) (c : Bool) : Completes s (s.skipIf c) := by
  refine ⟨rfl, rfl, rfl, ⟨rfl, rfl, rfl, rfl⟩, storesNothing rfl, ?_⟩
  cases c with
  | false => exact .advances rfl rfl rfl
  | true => exact .skips rfl rfl rfl

theorem completes_jumpTo (s : State) (w : Word) (h : w.toNat ≤ 0x10FE) : Completes s (s.jumpTo w) :=
  ⟨rfl, rfl, rfl, ⟨rfl, rfl, rfl, rfl⟩, storesNothing rfl, .jumps rfl rfl h⟩

theorem completes_store (s : State) (xs : List Byte) (h : s.i.toNat + xs.length ≤ Config.memSize) :
    Completes s (s.setMem (s.mem.writeBytes s.i.toNat xs)).advance :=
  ⟨rfl, rfl, rfl, ⟨rfl, rfl, rfl, rfl⟩, ⟨_, xs, h, rfl⟩, .advances rfl rfl rfl⟩

theorem addrWord_le (nnn : Addr) : (addrWord nnn).toNat ≤ 0xFFF := by
  have := nnn.isLt
  rw [addrWord, BitVec.toNat_setWidth]
  omega

/-- No target is above 0x10FE (spec/44_control.md R214). -/
theorem offsetTarget_le (nnn : Addr) (b : Byte) : (offsetTarget nnn b).toNat ≤ 0x10FE := by
  have := nnn.isLt
  have := b.isLt
  rw [offsetTarget, BitVec.toNat_ofNat]
  omega

/-- An access in range completes by its body, one out of range raises AddressOutOfRange. -/
theorem ends_withCells {i : Instr} (s : State) (n : Nat) (body : State)
    (hb : s.i.toNat + n ≤ 4096 ∨ n = 0 → Completes s body) : Ends i s (s.withCells (encode i) n body) := by
  rcases withCells_cases s (encode i) n body with ⟨hr, e⟩ | ⟨-, -, e⟩
  · rw [e]
    exact .completes (hb hr)
  · rw [e]
    exact .faults _ _ (by decide) (addrFits_firstBad _)

theorem ends_skipOnKey {i : Instr} (s : State) (k : Byte) (down : Bool) :
    Ends i s (s.skipOnKey (encode i) k down) := by
  unfold State.skipOnKey
  split
  · exact .faults _ _ (by decide) (addrFits_zero (by decide))
  · exact .completes (completes_skipIf s _)

theorem ends_execCall {nnn : Addr} {s t : State} (h : execCall nnn s = .next t) : Ends (.call nnn) s t := by
  unfold execCall at h
  split at h
  · cases h
    exact .faults _ _ (by decide) (addrFits_zero (by decide))
  · split at h
    · rename_i hk
      cases h
      exact .completes ⟨rfl, rfl, rfl, ⟨rfl, rfl, rfl, rfl⟩, storesNothing rfl, .calls hk rfl rfl (addrWord_le nnn)⟩
    · cases h

theorem ends_execRet {s t : State} (h : execRet s = .next t) : Ends .ret s t := by
  unfold execRet at h
  split at h
  · cases h
    exact .faults _ _ (by decide) (addrFits_zero (by decide))
  · split at h
    · rename_i hk
      cases h
      exact .completes ⟨rfl, rfl, rfl, ⟨rfl, rfl, rfl, rfl⟩, storesNothing rfl, .returns hk rfl rfl rfl⟩
    · cases h

theorem ends_execLdVxK {x : Nibble} {s t : State} (h : execLdVxK x s = .next t) : Ends (.ldVxK x) s t := by
  obtain rfl := Host.Outcome.next.inj h
  split
  · exact .waits x rfl ‹_›
  · exact .completes ⟨rfl, rfl, rfl, ⟨rfl, rfl, rfl, rfl⟩, storesNothing rfl, .advances rfl rfl rfl⟩

/-- An instruction that answers a next state ends in one of the three ways. -/
theorem exec_ends {i : Instr} {s t : State} (h : exec i s = .next t) : Ends i s t := by
  cases i
  case call nnn => exact ends_execCall h
  case ret => exact ends_execRet h
  case ldVxK x => exact ends_execLdVxK h
  all_goals obtain rfl := Host.Outcome.next.inj h
  case jp nnn => exact .completes (completes_jumpTo s _ (le_trans (addrWord_le nnn) (by decide)))
  case jpV0 nnn => exact .completes (completes_jumpTo s _ (offsetTarget_le nnn _))
  case seImm | sneImm | seReg | sneReg => exact .completes (completes_skipIf s _)
  case skp | sknp => exact ends_skipOnKey s _ _
  case ldB x =>
    exact ends_withCells s 3 _ fun hr => completes_store s (bcdDigits (s.getV x)) (hr.resolve_right (by decide))
  case stRegs x =>
    have hx : x.toNat < 16 := x.isLt
    refine ends_withCells s (x.toNat + 1) _ fun hr => completes_store s (s.firstRegs (x.toNat + 1)) ?_
    rw [length_firstRegs s _ (by omega)]
    exact hr.resolve_right (by omega)
  case ldRegs | drw =>
    exact ends_withCells s _ _ fun _ =>
      ⟨rfl, rfl, rfl, ⟨rfl, rfl, rfl, rfl⟩, storesNothing rfl, .advances rfl rfl rfl⟩
  -- Every other instruction takes the default advance and stores nothing.
  all_goals
    exact .completes ⟨rfl, rfl, rfl, ⟨rfl, rfl, rfl, rfl⟩, storesNothing rfl, .advances rfl rfl rfl⟩

/-- The fetched word is the obligations' reading of the two bytes at PC (spec/20_memory.md R63). -/
theorem wordOfBytes_eq_opcodeAtPc (s : State) :
    wordOfBytes (s.mem.read s.pc.toNat) (s.mem.read (s.pc.toNat + 1)) = opcodeAtPc s := by
  apply BitVec.eq_of_toNat_eq
  have hlo := (s.mem.read (s.pc.toNat + 1)).isLt
  have hhi := (s.mem.read s.pc.toNat).isLt
  rw [wordOfBytes, BitVec.toNat_append, ← Nat.shiftLeft_add_eq_or_of_lt hlo, Nat.shiftLeft_eq, opcodeAtPc,
    BitVec.toNat_ofNat]
  omega

/-- What a step of CORE that answers a next state can do (spec/60_exceptions.md R262): nothing, while halted; or, from the
state with the note that a step was taken, raise a fault, wait for a key, or complete an instruction fetched inside
memory. -/
inductive StepEnds (s : State) : State → Prop where
  | stays (hh : s.latch.halted = true) : StepEnds s { s with status := .fault }
  | faults (hh : s.latch.halted = false) (c : Cause) (op : Word) (addr : FaultAddr) (hc : c ≠ .none)
      (ha : AddrFits c addr) : StepEnds s (s.launch.takeFault c op addr)
  | waits (hh : s.latch.halted = false) (x : Nibble) (hi : decodeWord (opcodeAtPc s) = .ok (.ldVxK x))
      (hk : s.keys = 0) : StepEnds s s.launch.waitForKey
  | completes {t : State} (hh : s.latch.halted = false) (hpc : s.pc.toNat ≤ 0xFFE) (hc : Completes s.launch t) :
      StepEnds s t

theorem coreStep_ends {s t : State} (h : coreStep s = .next t) : StepEnds s t := by
  rcases coreStep_cases s with ⟨hh, e⟩ | ⟨hh, -, e⟩ | ⟨hh, -, _, -, e⟩ | ⟨hh, hpc, i, hi, e⟩
  all_goals rw [e] at h
  · cases h
    exact .stays hh
  · cases h
    exact .faults hh _ _ _ (by decide) (addrFits_firstBad _)
  · cases h
    exact .faults hh _ _ _ (by decide) (addrFits_zero (by decide))
  · cases exec_ends h with
    | completes hc => exact .completes hh hpc hc
    | waits x hx hk => exact .waits hh x (by rw [← wordOfBytes_eq_opcodeAtPc, hi, hx]) hk
    | faults c addr hc ha => exact .faults hh c _ addr hc ha

/-- With a legal SP a step answers a next state (spec/10_state.md R27). -/
theorem coreStep_answers {s : State} (h : SpLegal s) : ∃ t : State, coreStep s = .next t := by
  rcases coreStep_cases s with ⟨-, e⟩ | ⟨-, -, e⟩ | ⟨-, -, _, -, e⟩ | ⟨-, -, i, -, e⟩
  · exact ⟨_, e⟩
  · exact ⟨_, e⟩
  · exact ⟨_, e⟩
  · rw [e]
    exact exec_answers i s.launch (h.imp_right Nat.lt_succ_of_le)

/-! Runs of events: each induction over a run, once. -/

theorem runEvents_singleton (e : Event) (s : State) : runEvents [e] s = e.apply s := by
  cases h : e.apply s <;> simp [runEvents, h]

theorem runEvents_cons_of_next {e : Event} {es : List Event} {s t : State} (h : e.apply s = .next t) :
    runEvents (e :: es) s = runEvents es t := by
  simp only [runEvents, h]

/-- A run that answers has a first event that answers, and goes on from there. -/
theorem runEvents_cons_cases {e : Event} {es : List Event} {s u : State} (h : runEvents (e :: es) s = .next u) :
    ∃ t : State, e.apply s = .next t ∧ runEvents es t = .next u := by
  cases he : e.apply s with
  | next t => exact ⟨t, rfl, by rwa [runEvents_cons_of_next he] at h⟩
  | fault f => simp [runEvents, he] at h
  | refused r => simp [runEvents, he] at h

/-- What every event of a run keeps, the run keeps. -/
theorem runEvents_keeps {P : State → Prop} {es : List Event}
    (hP : ∀ e ∈ es, ∀ s t : State, P s → e.apply s = .next t → P t) {s t : State} (hs : P s)
    (h : runEvents es s = .next t) : P t := by
  induction es generalizing s with
  | nil =>
    obtain rfl := Host.Outcome.next.inj h
    exact hs
  | cons e es ih =>
    obtain ⟨u, hu, hrun⟩ := runEvents_cons_cases h
    exact ih (fun e he => hP e (List.mem_cons_of_mem _ he)) (hP e List.mem_cons_self s u hs hu) hrun

/-- If every event answers and keeps the property, every run answers and keeps it. -/
theorem runEvents_answers {P : State → Prop}
    (hP : ∀ (e : Event) (s : State), P s → ∃ t : State, e.apply s = .next t ∧ P t) (es : List Event)
    {s : State} (hs : P s) : ∃ t : State, runEvents es s = .next t ∧ P t := by
  induction es generalizing s with
  | nil => exact ⟨s, rfl, hs⟩
  | cons e es ih =>
    obtain ⟨u, hu, hPu⟩ := hP e s hs
    rw [runEvents_cons_of_next hu]
    exact ih hPu

/-- `n` single ticks of the delay timer at the head of a run are `n` ticks at once (spec/60_exceptions.md R255). -/
theorem runEvents_replicate_tickDt (n : Nat) (es : List Event) (s : State) :
    runEvents (List.replicate n .tickDt ++ es) s = runEvents es (s.setDt (ticks n s.dt)) := by
  induction n generalizing s with
  | zero => rw [ticks_zero]; rfl
  | succ n ih => calc
      runEvents (List.replicate n .tickDt ++ es) s.tickDt
      _ = runEvents es (s.tickDt.setDt (ticks n s.tickDt.dt)) := ih s.tickDt
      _ = runEvents es (s.setDt (ticks (n + 1) s.dt)) := by rw [ticks_succ]; rfl

/-- `n` single ticks of the sound timer at the head of a run are `n` ticks at once (spec/60_exceptions.md R255). -/
theorem runEvents_replicate_tickSt (n : Nat) (es : List Event) (s : State) :
    runEvents (List.replicate n .tickSt ++ es) s = runEvents es (s.setSt (ticks n s.st)) := by
  induction n generalizing s with
  | zero => rw [ticks_zero]; rfl
  | succ n ih => calc
      runEvents (List.replicate n .tickSt ++ es) s.tickSt
      _ = runEvents es (s.tickSt.setSt (ticks n s.tickSt.st)) := ih s.tickSt
      _ = runEvents es (s.setSt (ticks (n + 1) s.st)) := by rw [ticks_succ]; rfl

/-! The invariant is kept by every event of every agent. -/

theorem flow_spLegal {s t : State} (hf : Flow s t) (hs : SpLegal s) : SpLegal t := by
  have h1 : (1 : Byte).toNat = 1 := rfl
  cases hf with
  | advances sp | skips sp | jumps sp => rwa [SpLegal, sp]
  | calls h sp =>
    right
    rw [sp]
    omega
  | returns h sp =>
    rw [SpLegal, sp]
    by_cases h0 : s.sp = 0
    · left
      rw [h0]
      rfl
    · right
      have : s.sp.toNat ≠ 0 := fun e => h0 (BitVec.eq_of_toNat_eq e)
      rw [BitVec.toNat_sub, h1]
      omega

/-- A fetched instruction leaves PC and the return addresses bounded (spec/10_state.md R26; spec/44_control.md R214). -/
theorem flow_targetsBounded {s t : State} (hf : Flow s t) (hpc : s.pc.toNat ≤ 0xFFE) (hs : TargetsBounded s) :
    TargetsBounded t := by
  obtain ⟨-, hstack⟩ := hs
  have h2 : (s.pc + 2).toNat = s.pc.toNat + 2 := BitVec.toNat_add_of_lt (by simp; omega)
  have h4 : (s.pc + 4).toNat = s.pc.toNat + 4 := BitVec.toNat_add_of_lt (by simp; omega)
  cases hf with
  | advances _ stack pc => exact ⟨by rw [pc]; omega, by rwa [stack]⟩
  | skips _ stack pc => exact ⟨by rw [pc]; omega, by rwa [stack]⟩
  | jumps _ stack pc => exact ⟨pc, by rwa [stack]⟩
  | calls h _ stack pc =>
    refine ⟨by omega, fun w hw => ?_⟩
    rw [stack, Vector.toList_set] at hw
    rcases List.mem_or_eq_of_mem_set hw with hw | rfl
    · exact hstack w hw
    · omega
  | returns h _ stack pc =>
    refine ⟨?_, by rwa [stack]⟩
    have := hstack s.stack[s.sp.toNat] (by simp)
    rw [pc]
    omega

/-- A fault keeps the invariant, whatever the latch held before. -/
theorem inv_takeFault {s : State} {c : Cause} {op : Word} {addr : FaultAddr} (hs : Inv s) (hc : c ≠ .none)
    (ha : AddrFits c addr) : Inv (s.takeFault c op addr) where
  mem := hs.mem
  sp := hs.sp
  latch := ⟨by simp, by simp, fun _ => ⟨hc, rfl, ha⟩⟩
  targets := hs.targets

theorem inv_launch {s : State} (hs : Inv s) : Inv s.launch := ⟨hs.mem, hs.sp, hs.latch, hs.targets⟩

/-- The step of a halted core keeps the invariant (spec/60_exceptions.md R248). -/
theorem inv_status_fault {s : State} (hs : Inv s) (hh : s.latch.halted = true) : Inv { s with status := .fault } where
  mem := hs.mem
  sp := hs.sp
  latch := by
    obtain ⟨-, -, hfault⟩ := hs.latch
    exact ⟨by simp [hh], by simp [hh], hfault⟩
  targets := hs.targets

/-- A state that is not halted keeps its consistent latch when the status becomes one that is not FAULT. -/
theorem latchConsistent_of_running {s t : State} (hs : LatchConsistent s) (hh : s.latch.halted = false)
    (hlatch : t.latch = s.latch) (hst : t.status ≠ .fault) : LatchConsistent t := by
  obtain ⟨-, hclear, -⟩ := hs
  refine ⟨by simp [hlatch, hh, hst], fun _ => hlatch.trans (hclear hh), fun h => ?_⟩
  simp [hlatch, hh] at h

/-- A completed instruction that was fetched inside memory keeps the invariant. -/
theorem inv_of_completes {s t : State} (hc : Completes s t) (hs : Inv s) (hh : s.latch.halted = false)
    (hpc : s.pc.toNat ≤ 0xFFE) : Inv t := by
  obtain ⟨a, xs, hin, hmem⟩ := hc.mem
  exact {
    mem := hmem ▸ writeBytes_wf s.mem a xs hin hs.mem
    sp := flow_spLegal hc.flow hs.sp
    latch := latchConsistent_of_running hs.latch hh hc.latch (by simp [hc.status])
    targets := flow_targetsBounded hc.flow hpc hs.targets }

theorem coreStep_keeps_inv {s t : State} (hs : Inv s) (h : coreStep s = .next t) : Inv t := by
  have hl := inv_launch hs
  cases coreStep_ends h with
  | stays hh => exact inv_status_fault hs hh
  | faults _ c op addr hc ha => exact inv_takeFault hl hc ha
  | waits hh => exact ⟨hl.mem, hl.sp, latchConsistent_of_running hl.latch hh rfl (by simp), hl.targets⟩
  | completes hh hpc hc => exact inv_of_completes hc hl hh hpc

theorem loadByte_keeps_inv {s : State} (a : Addr) (b : Byte) (hs : Inv s) : Inv (s.loadByte a b) := by
  unfold State.loadByte
  split
  · exact hs
  · exact ⟨write_wf s.mem a.toNat b a.isLt hs.mem, hs.sp, hs.latch, hs.targets⟩

/-- The state after a reset meets the invariant, whatever the state before (spec/10_state.md R40). -/
theorem inv_assertReset (s : State) : Inv s.assertReset where
  mem := resetWith_mem_wf s.font
  sp := .inl rfl
  latch := by simp [LatchConsistent, State.reset, FaultLatch.clear]
  targets := by
    refine ⟨by simp [State.reset], fun w hw => ?_⟩
    have hz : w = 0 := List.eq_of_mem_replicate (n := 16) hw
    simp [hz]

/-- Every event of every agent answers and keeps the invariant. -/
theorem event_keeps_inv (e : Event) (s : State) (hs : Inv s) : ∃ t : State, e.apply s = .next t ∧ Inv t := by
  cases e with
  | step =>
    obtain ⟨t, ht⟩ := coreStep_answers hs.sp
    exact ⟨t, ht, coreStep_keeps_inv hs ht⟩
  | tickDt | tickSt | driveKeys | driveRnd => exact ⟨_, rfl, hs.mem, hs.sp, hs.latch, hs.targets⟩
  | loadByte a b => exact ⟨_, rfl, loadByte_keeps_inv a b hs⟩
  | assertReset => exact ⟨_, rfl, inv_assertReset s⟩

/-- Settles O59: the events keep the invariant one by one, so a run of them does, by induction on the run. -/
theorem everyInterleavingGoesOn : Obligations.EveryInterleavingGoesOn := by
  unfold Obligations.EveryInterleavingGoesOn
  exact fun es s hs => runEvents_answers event_keeps_inv es hs

/-! The three outcomes of a step (spec/00_scope.md R13). -/

/-- A step that raises a fault keeps every part but the latch and the note that a step was taken. -/
theorem keepsAllBut_launch_takeFault (s : State) (c : Cause) (op : Word) (addr : FaultAddr) :
    KeepsAllBut [.latch, .inputs] s (s.launch.takeFault c op addr) := by
  intro p hp
  cases p with
  | latch | inputs => simp at hp
  | registers | memory => exact fun _ => rfl
  | display => exact fun _ _ => rfl
  | _ => rfl

/-- The status port is in none of the parts. -/
theorem keepsAllBut_status (ps : List Part) (s : State) (st : Status) : KeepsAllBut ps s { s with status := st } := by
  intro p _
  cases p with
  | registers | memory => exact fun _ => rfl
  | display => exact fun _ _ => rfl
  | inputs => exact ⟨rfl, rfl, rfl, rfl⟩
  | _ => rfl

/-- Settles O44: by the ways a step can end; both a halted step and a raised fault answer FAULT. -/
theorem stepEndsInOneOfThreeWays : Obligations.StepEndsInOneOfThreeWays := by
  unfold Obligations.StepEndsInOneOfThreeWays
  intro s t h
  cases coreStep_ends h with
  | stays hh => exact .inr (.inr ⟨rfl, hh, rfl, keepsAllBut_status _ s _, rfl, rfl⟩)
  | faults => exact .inr (.inr ⟨rfl, rfl, rfl, keepsAllBut_launch_takeFault s _ _ _, rfl, rfl⟩)
  | waits _ x hi hk => exact .inr (.inl ⟨rfl, hk, x, hi⟩)
  | completes hh _ hc => exact .inl ⟨hc.status, hh, hc.latch⟩

/-! FONT_DATA is fixed for the machine (spec/10_state.md R33). -/

theorem coreStep_font {s t : State} (h : coreStep s = .next t) : t.font = s.font := by
  cases coreStep_ends h with
  | completes _ _ hc => exact hc.font
  | stays | faults | waits => rfl

theorem loadByte_font (s : State) (a : Addr) (b : Byte) : (s.loadByte a b).font = s.font := by
  unfold State.loadByte
  split <;> rfl

theorem event_font {e : Event} {s t : State} (h : e.apply s = .next t) : t.font = s.font := by
  cases e with
  | step => exact coreStep_font h
  | loadByte a b =>
    obtain rfl := Host.Outcome.next.inj h
    exact loadByte_font s a b
  | tickDt | tickSt | driveKeys | driveRnd | assertReset =>
    obtain rfl := Host.Outcome.next.inj h
    rfl

theorem launchState_font {font : Font} {rom : List Byte} {s : State} (h : launchState font rom = some s) :
    s.font = font := by
  unfold launchState State.loadRom at h
  split at h
  · cases h
  · cases h
    rfl

/-- Settles O50: no event changes the font, and a reset writes the machine's own. -/
theorem everyResetRestoresTheFont : Obligations.EveryResetRestoresTheFont := by
  unfold Obligations.EveryResetRestoresTheFont
  intro font rom es s t hs hrun
  have hfont : t.font = font := runEvents_keeps (P := fun u => u.font = font)
    (fun _ _ _ _ hu he => (event_font he).trans hu) (launchState_font hs) hrun
  have hread (a : Nat) : t.assertReset.mem.read a = if h : a < 80 then font[a] else 0 :=
    hfont ▸ read_resetWith t.font a
  refine ⟨hfont, t.assertReset, rfl, hfont, fun a => ?_, fun a ha => ?_⟩
  · rw [hread, dif_pos a.isLt]
    rfl
  · rw [hread, dif_neg (by omega)]

/-! The host's step as a run of the spec's events (spec/00_scope.md R16). -/

/-- Settles O54: single ticks add up to the driver's number of ticks, and the new inputs complete the driver's turn. -/
theorem stepIsARunOfEvents : Obligations.StepIsARunOfEvents := by
  unfold Obligations.StepIsARunOfEvents
  intro s
  rw [List.append_assoc, runEvents_replicate_tickDt, runEvents_replicate_tickSt]
  rw [runEvents_cons_of_next (e := .driveKeys _) rfl, runEvents_cons_of_next (e := .driveRnd _) rfl,
    runEvents_singleton]
  rfl

end Sys2Proof.Proofs
end

section
namespace Sys2Proof.Proofs

open Sys2Proof.Machine
open Sys2Proof.Safety

/-! The invariant: one event, one step of the host, and the state after a reset. -/

/-- Settles O57: the step lemma of the invariant, event by event. -/
theorem everyEventKeepsInvariant : Obligations.EveryEventKeepsInvariant := by
  unfold Obligations.EveryEventKeepsInvariant
  exact event_keeps_inv

/-- The driver's turn writes the ports and the timers, of which the invariant does not speak
(spec/60_exceptions.md R263). -/
theorem inv_driverTurn {s : State} (hs : Inv s) : Inv s.driverTurn := ⟨hs.mem, hs.sp, hs.latch, hs.targets⟩

/-- Settles O58: the driver's turn keeps the invariant, and the step of CORE after it does. -/
theorem stepKeepsInvariant : Obligations.StepKeepsInvariant := by
  unfold Obligations.StepKeepsInvariant
  exact fun s t hs h => coreStep_keeps_inv (inv_driverTurn hs) h

/-- With the default FONT_DATA a reset lists no cell: both memories are canonical and read the same (log entry 8). -/
theorem resetWith_defaultFont : State.resetWith defaultFont = State.reset := by
  have hread (a : Nat) : (State.resetWith defaultFont).mem.read a = State.reset.mem.read a := by
    have hlen : fontData.length = 80 := by simp [fontData]
    calc (State.resetWith defaultFont).mem.read a
      _ = if h : a < 80 then defaultFont[a] else 0 := read_resetWith defaultFont a
      _ = fontData.getD a 0 := by
        split
        · rw [List.getD_eq_getElem _ _ (by omega)]
          rfl
        · rw [List.getD_eq_default _ _ (by omega)]
  have hmem : (State.resetWith defaultFont).mem = State.reset.mem :=
    wfFrom_ext 0 _ _ (resetWith_mem_wf defaultFont) reset_mem_wf hread
  calc State.resetWith defaultFont
    _ = { State.reset with mem := (State.resetWith defaultFont).mem } := rfl
    _ = State.reset := by rw [hmem]

/-- A reset asserted on the state after reset, with the font chosen, is the reset with that font. -/
theorem assertReset_reset (font : Font) : { State.reset with font := font }.assertReset = State.resetWith font := rfl

theorem inv_resetWith (font : Font) : Inv (State.resetWith font) := assertReset_reset font ▸ inv_assertReset _

/-- Settles O56: every asserted reset meets the invariant, and `State.reset` is the one with the default font. -/
theorem resetMeetsInvariant : Obligations.ResetMeetsInvariant := by
  unfold Obligations.ResetMeetsInvariant
  exact ⟨resetWith_defaultFont ▸ inv_resetWith defaultFont, inv_resetWith⟩

theorem getV_resetWith (font : Font) (z : Nibble) : (State.resetWith font).getV z = 0 :=
  Vector.getElem_replicate z.isLt

/-- Settles O48: memory by what a read after reset returns, every other piece of state by its value in `State.reset`. -/
theorem resetGivesTheTable : Obligations.ResetGivesTheTable := by
  unfold Obligations.ResetGivesTheTable
  refine ⟨resetWith_defaultFont, fun font => ⟨fun a => ?_, fun a ha => ?_, getV_resetWith font, rfl, rfl, rfl,
    fun k => Vector.getElem_replicate k.isLt, rfl, rfl, get_blank, rfl, rfl⟩⟩
  · rw [read_resetWith, dif_pos a.isLt]
    rfl
  · rw [read_resetWith, dif_neg (by omega)]

/-! The stack pointer (spec/10_state.md R27). -/

/-- Settles O45: a legal SP is all a step needs to answer, and only CALL and RET move SP, by the flow of control. -/
theorem stepAlwaysAnswers : Obligations.StepAlwaysAnswers := by
  unfold Obligations.StepAlwaysAnswers
  intro s hs
  obtain ⟨t, ht⟩ := coreStep_answers hs
  refine ⟨t, ht, ?_⟩
  cases coreStep_ends ht with
  | stays | faults | waits => exact hs
  | completes _ _ hc => exact flow_spLegal hc.flow hs

theorem execCall_illegal {s : State} (nnn : Addr) (h : ¬ SpLegal s) :
    execCall nnn s = .fault .illegalStackPointer := by
  obtain ⟨hne, hgt⟩ := not_or.mp h
  have h15 : s.sp ≠ 15 := fun e => hgt (by rw [e]; decide)
  have hk : ¬ (s.sp + 1).toNat < 16 := by bv_omega
  rw [execCall, if_neg h15, dif_neg hk]

theorem execRet_illegal {s : State} (h : ¬ SpLegal s) : execRet s = .fault .illegalStackPointer := by
  obtain ⟨hne, hgt⟩ := not_or.mp h
  rw [execRet, if_neg hne, dif_neg (by omega)]

/-- Settles O32: an illegal SP is neither a full nor an empty stack, and names no entry. -/
theorem illegalStackPointerStops : Obligations.IllegalStackPointerStops := by
  unfold Obligations.IllegalStackPointerStops
  exact fun nnn s h => ⟨execCall_illegal nnn h, execRet_illegal h⟩

/-! Frames (spec/20_memory.md R66): what each operation on the state may change, then what each instruction may. -/

/-- A frame field by field. For an update of the state the laws of State give every field outside the named parts. -/
theorem keepsAllBut_of_fields {ps : List Part} {s t : State}
    (v : .registers ∉ ps → t.v = s.v := by simp) (i : .index ∉ ps → t.i = s.i := by simp)
    (sp : .sp ∉ ps → t.sp = s.sp := by simp) (stack : .stack ∉ ps → t.stack = s.stack := by simp)
    (dt : .dt ∉ ps → t.dt = s.dt := by simp) (st : .st ∉ ps → t.st = s.st := by simp)
    (mem : .memory ∉ ps → t.mem = s.mem := by simp) (fb : .display ∉ ps → t.fb = s.fb := by simp)
    (latch : .latch ∉ ps → t.latch = s.latch := by simp) (font : .font ∉ ps → t.font = s.font := by simp)
    (inputs : .inputs ∉ ps → Part.inputs.kept s t := by simp [Part.kept]) :
    KeepsAllBut ps s t := by
  intro p hp
  cases p with
  | registers => exact getV_congr (v hp)
  | index => exact i hp
  | sp => exact sp hp
  | stack => exact stack hp
  | dt => exact dt hp
  | st => exact st hp
  | memory => exact fun a => by rw [mem hp]
  | display => exact fun row col => by rw [fb hp]
  | latch => exact latch hp
  | font => exact font hp
  | inputs => exact inputs hp

theorem keepsAllBut_mono {ps qs : List Part} {s t : State} (hsub : ps ⊆ qs) (h : KeepsAllBut ps s t) :
    KeepsAllBut qs s t :=
  fun p hp => h p fun hm => hp (hsub hm)

/-- The end of an instruction moves PC, which is in no part. -/
theorem keepsAllBut_then_jumpTo {ps : List Part} {s t : State} {w : Word} (h : KeepsAllBut ps s t) :
    KeepsAllBut ps s (t.jumpTo w) :=
  h

section
variable (s : State)

theorem keepsAllBut_jumpTo (w : Word) : KeepsAllBut [] s (s.jumpTo w) := keepsAllBut_of_fields
theorem keepsAllBut_setV (x : Nibble) (b : Byte) : KeepsAllBut [.registers] s (s.setV x b) := keepsAllBut_of_fields
theorem keepsAllBut_setFlagged (x : Nibble) (f r : Byte) : KeepsAllBut [.registers] s (s.setFlagged x f r) :=
  keepsAllBut_of_fields
theorem keepsAllBut_loadFirstRegs (k : Nat) : KeepsAllBut [.registers] s (s.loadFirstRegs k) := keepsAllBut_of_fields
theorem keepsAllBut_setI (w : Word) : KeepsAllBut [.index] s (s.setI w) := keepsAllBut_of_fields
theorem keepsAllBut_setDt (b : Byte) : KeepsAllBut [.dt] s (s.setDt b) := keepsAllBut_of_fields
theorem keepsAllBut_setSt (b : Byte) : KeepsAllBut [.st] s (s.setSt b) := keepsAllBut_of_fields
theorem keepsAllBut_setMem (m : Memory) : KeepsAllBut [.memory] s (s.setMem m) := keepsAllBut_of_fields
theorem keepsAllBut_setFb (d : Display) : KeepsAllBut [.display] s (s.setFb d) := keepsAllBut_of_fields
theorem keepsAllBut_takeFault (c : Cause) (op : Word) (addr : FaultAddr) :
    KeepsAllBut [.latch] s (s.takeFault c op addr) :=
  keepsAllBut_of_fields
theorem keepsAllBut_pushCall (k : Byte) (h : k.toNat < 16) (ret target : Word) :
    KeepsAllBut [.sp, .stack] s (s.pushCall k h ret target) :=
  keepsAllBut_of_fields
theorem keepsAllBut_popReturn (h : s.sp.toNat < 16) : KeepsAllBut [.sp] s (s.popReturn h) := keepsAllBut_of_fields

theorem keepsAllBut_setFb_setV (d : Display) (x : Nibble) (b : Byte) :
    KeepsAllBut [.registers, .display] s ((s.setFb d).setV x b) :=
  keepsAllBut_of_fields

/-- A draw changes the framebuffer and VF (spec/42_display.md R172). -/
theorem keepsAllBut_drawSprite (vx vy : Byte) (n : Nat) : KeepsAllBut [.registers, .display] s (s.drawSprite vx vy n) :=
  keepsAllBut_setFb_setV s _ _ _

end

/-- The range check adds the latch to what the body may change. -/
theorem keepsAllBut_withCells {ps : List Part} {s body : State} (op : Word) (n : Nat) (hb : KeepsAllBut ps s body) :
    KeepsAllBut (ps ++ [.latch]) s (s.withCells op n body) := by
  rcases withCells_cases s op n body with ⟨-, e⟩ | ⟨-, -, e⟩
  · rw [e]
    exact keepsAllBut_mono (by simp) hb
  · rw [e]
    exact keepsAllBut_mono (by simp) (keepsAllBut_takeFault s _ _ _)

theorem keepsAllBut_skipOnKey (s : State) (op : Word) (k : Byte) (down : Bool) :
    KeepsAllBut [.latch] s (s.skipOnKey op k down) := by
  unfold State.skipOnKey
  split
  · exact keepsAllBut_takeFault s _ _ _
  · exact keepsAllBut_mono (by simp) (keepsAllBut_jumpTo s _)

theorem keepsAllBut_execCall {nnn : Addr} {s t : State} (h : execCall nnn s = .next t) :
    KeepsAllBut [.sp, .stack, .latch] s t := by
  unfold execCall at h
  split at h
  · cases h
    exact keepsAllBut_mono (by simp) (keepsAllBut_takeFault s _ _ _)
  · split at h
    · cases h
      exact keepsAllBut_mono (by simp) (keepsAllBut_pushCall s _ _ _ _)
    · cases h

theorem keepsAllBut_execRet {s t : State} (h : execRet s = .next t) : KeepsAllBut [.sp, .latch] s t := by
  unfold execRet at h
  split at h
  · cases h
    exact keepsAllBut_mono (by simp) (keepsAllBut_takeFault s _ _ _)
  · split at h
    · cases h
      exact keepsAllBut_mono (by simp) (keepsAllBut_popReturn s _)
    · cases h

theorem keepsAllBut_execLdVxK {x : Nibble} {s t : State} (h : execLdVxK x s = .next t) :
    KeepsAllBut [.registers] s t := by
  obtain rfl := Host.Outcome.next.inj h
  split
  · exact keepsAllBut_status _ s _
  · exact keepsAllBut_then_jumpTo (keepsAllBut_setV s _ _)

/-- An instruction changes no part but those it writes. -/
theorem exec_keepsAllBut {i : Instr} {s t : State} (h : exec i s = .next t) : KeepsAllBut (partsWritten i) s t := by
  cases i
  case call => exact keepsAllBut_execCall h
  case ret => exact keepsAllBut_execRet h
  case ldVxK => exact keepsAllBut_execLdVxK h
  all_goals obtain rfl := Host.Outcome.next.inj h
  case sys | jp | jpV0 | seImm | sneImm | seReg | sneReg => exact keepsAllBut_jumpTo s _
  case ldImm | addImm | ldReg | orReg | andReg | xorReg | rnd | ldVxDt =>
    exact keepsAllBut_then_jumpTo (keepsAllBut_setV s _ _)
  case addReg | subReg | shr | subnReg | shl => exact keepsAllBut_then_jumpTo (keepsAllBut_setFlagged s _ _ _)
  case ldI | addI | ldF => exact keepsAllBut_then_jumpTo (keepsAllBut_setI s _)
  case ldDtVx => exact keepsAllBut_then_jumpTo (keepsAllBut_setDt s _)
  case ldStVx => exact keepsAllBut_then_jumpTo (keepsAllBut_setSt s _)
  case cls => exact keepsAllBut_then_jumpTo (keepsAllBut_setFb s _)
  case skp | sknp => exact keepsAllBut_skipOnKey s _ _ _
  case ldB | stRegs => exact keepsAllBut_withCells _ _ (keepsAllBut_then_jumpTo (keepsAllBut_setMem s _))
  case ldRegs => exact keepsAllBut_withCells _ _ (keepsAllBut_then_jumpTo (keepsAllBut_loadFirstRegs s _))
  case drw => exact keepsAllBut_withCells _ _ (keepsAllBut_then_jumpTo (keepsAllBut_drawSprite s _ _ _))

/-- Settles O37: by the frame of each instruction. -/
theorem eachPartHasItsWriters : Obligations.EachPartHasItsWriters := by
  unfold Obligations.EachPartHasItsWriters
  exact fun _ _ _ h => exec_keepsAllBut h

/-! The flag register (spec/10_state.md R23). -/

theorem getV_flag_setV_advance {s : State} {x : Nibble} (b : Byte) (hx : x ≠ 15) :
    (s.setV x b).advance.getV 15 = s.getV 15 := by
  rw [getV_advance, getV_setV, if_neg hx.symm]

/-- A block load that stops short of VF leaves it alone. -/
theorem getV_flag_execLdRegs {s t : State} {x : Nibble} (hx : x ≠ 15) (h : execLdRegs x s = .next t) :
    t.getV 15 = s.getV 15 := by
  have hlt : ¬ (15 : Nibble).toNat < x.toNat + 1 := by bv_omega
  obtain rfl := Host.Outcome.next.inj h
  rcases withCells_cases s (encode (.ldRegs x)) (x.toNat + 1) (s.loadFirstRegs (x.toNat + 1)).advance
    with ⟨-, e⟩ | ⟨-, -, e⟩
  · rw [e, getV_advance, getV_loadFirstRegs, if_neg hlt]
  · rw [e, getV_takeFault]

/-- Settles O13: an instruction that writes registers, and is none of the six, writes its destination alone, or a block
that ends there; any other has the registers in its frame. -/
theorem onlySixInstructionsWriteFlag : Obligations.OnlySixInstructionsWriteFlag := by
  unfold Obligations.OnlySixInstructionsWriteFlag
  intro i s t h hw hd
  cases i
  case addReg | subReg | shr | subnReg | shl | drw => cases hw
  case ldImm | addImm | ldReg | orReg | andReg | xorReg | rnd | ldVxDt =>
    obtain rfl := Host.Outcome.next.inj h
    exact getV_flag_setV_advance _ (beq_eq_false_iff_ne.mp hd)
  case ldVxK =>
    obtain rfl := Host.Outcome.next.inj h
    split
    · rfl
    · exact getV_flag_setV_advance _ (beq_eq_false_iff_ne.mp hd)
  case ldRegs => exact getV_flag_execLdRegs (beq_eq_false_iff_ne.mp hd) h
  all_goals exact exec_keepsAllBut h .registers (by simp [partsWritten]) 15

end Sys2Proof.Proofs
end

section
namespace Sys2Proof.Proofs

open Sys2Proof.Machine
open Sys2Proof.Safety

/-! The fetch (spec/20_memory.md R63) and what it reads of a block just stored (R72). -/

theorem fetch_of_le {s : State} (h : s.pc.toNat ≤ 0xFFE) : fetch s = some (opcodeAtPc s) := by
  rw [fetch, if_neg (by omega), wordOfBytes_eq_opcodeAtPc]

theorem fetch_of_gt {s : State} (h : 0xFFE < s.pc.toNat) : fetch s = none := by
  rw [fetch, if_pos h]

theorem firstBad_eq_lowestBad (base : Word) : firstBad base = lowestBad base := by
  apply BitVec.eq_of_toNat_eq
  have := base.isLt
  rw [firstBad_toNat, lowestBad, BitVec.toNat_ofNat]
  omega

theorem coreStep_of_pc_gt {s : State} (hh : s.latch.halted = false) (hpc : 0xFFE < s.pc.toNat) :
    coreStep s = .next (s.launch.takeFault .addressOutOfRange 0 (firstBad s.pc)) := by
  rcases coreStep_cases s with ⟨ht, -⟩ | ⟨-, -, e⟩ | ⟨-, hle, -⟩ | ⟨-, hle, -⟩
  · simp [hh] at ht
  · exact e
  · omega
  · omega

/-- A fault raised by a step, as the obligations read it: the note that a step was taken is among the inputs. -/
theorem stepRaised_launch_takeFault (s : State) (c : Cause) (op : Word) (addr : FaultAddr) :
    StepRaised c op addr s (s.launch.takeFault c op addr) :=
  ⟨rfl, rfl, rfl, keepsAllBut_launch_takeFault s c op addr, rfl, rfl⟩

/-- Settles O40: the range check decides between the opcode at PC and the fetch fault. -/
theorem fetchIsBigEndianAndChecked : Obligations.FetchIsBigEndianAndChecked := by
  unfold Obligations.FetchIsBigEndianAndChecked
  refine fun s => ⟨fetch_of_le, fetch_of_gt, fun hpc hh => ⟨_, coreStep_of_pc_gt hh hpc, ?_⟩⟩
  rw [firstBad_eq_lowestBad]
  exact stepRaised_launch_takeFault s _ _ _

/-- A block store whose last byte is inside memory (spec/41_index_memory.md R155). -/
theorem execStRegs_of_le {x : Nibble} {s : State} (h : s.i.toNat + x.toNat ≤ 0xFFF) :
    execStRegs x s
      = .next (s.setMem (s.mem.writeBytes s.i.toNat (s.firstRegs (x.toNat + 1)))).advance := by
  rw [execStRegs, State.withCells, if_pos (.inl (by simp only [Config.memSize]; omega))]

theorem read_writeBytes_firstRegs (s : State) {x k : Nibble} (h : k.toNat ≤ x.toNat) :
    (s.mem.writeBytes s.i.toNat (s.firstRegs (x.toNat + 1))).read (s.i.toNat + k.toNat) = s.getV k := by
  have hx : x.toNat < 16 := x.isLt
  rw [read_writeBytes, length_firstRegs s _ (by omega), if_pos (by omega), Nat.add_sub_cancel_left,
    getD_firstRegs s _ k (by omega)]

/-- Settles O18: the two bytes at I + k and I + k + 1 are both of the block, which ends inside memory. -/
theorem storeSeenByNextFetch : Obligations.StoreSeenByNextFetch := by
  unfold Obligations.StoreSeenByNextFetch
  intro x k s t hin hk h
  obtain rfl := Host.Outcome.next.inj ((execStRegs_of_le hin).symm.trans h)
  have hx : x.toNat < 16 := x.isLt
  have hpc : (s.i + k.setWidth 16).toNat = s.i.toNat + k.toNat := by bv_omega
  have hsucc : (k + 1).toNat = k.toNat + 1 := by bv_omega
  rw [fetch_of_le (by rw [hpc]; omega), opcodeAtPc]
  simp only [advance_mem, setMem_mem]
  rw [hpc, Nat.add_assoc, ← hsucc, read_writeBytes_firstRegs s (by omega),
    read_writeBytes_firstRegs s (by omega)]

end Sys2Proof.Proofs
end

section
namespace Sys2Proof.Proofs

/-! The decoder and the encoder (spec/30_encoding.md R91 to R99). First the words of each format. -/

theorem ne_of_opTop_ne {w v : Word} (h : opTop w ≠ opTop v) : w ≠ v :=
  fun e => h (congrArg opTop e)

theorem formatA_of_opTop {w : Word} {op : Nibble} (h : (opTop w).toNat = op.toNat) : formatA op (opNnn w) = w := by
  rw [← BitVec.eq_of_toNat_eq h, formatA_fields]

theorem formatXK_of_opTop {w : Word} {op : Nibble} (h : (opTop w).toNat = op.toNat) :
    formatXK op (opX w) (opKk w) = w := by
  rw [← BitVec.eq_of_toNat_eq h, formatXK_fields]

theorem formatXYN_of_opTop {w : Word} {op : Nibble} (h : (opTop w).toNat = op.toNat) :
    formatXYN op (opX w) (opY w) (opN w) = w := by
  rw [← BitVec.eq_of_toNat_eq h, formatXYN_fields]

theorem formatXK_of_opTop_opKk {w : Word} {op : Nibble} {kk : Byte} (h : opTop w = op)
    (hk : (opKk w).toNat = kk.toNat) : formatXK op (opX w) kk = w := by
  rw [← h, ← BitVec.eq_of_toNat_eq hk, formatXK_fields]

theorem formatXYN_of_opTop_opN {w : Word} {op n : Nibble} (h : opTop w = op)
    (hn : (opN w).toNat = n.toNat) : formatXYN op (opX w) (opY w) n = w := by
  rw [← h, ← BitVec.eq_of_toNat_eq hn, formatXYN_fields]

/-- SYS carries a word of top nibble 0 that is neither CLS nor RET (R95). -/
theorem sys_wellFormed {w : Word} (h : formatA 0x0 (opNnn w) = w) (hcls : w ≠ 0x00E0#16) (hret : w ≠ 0x00EE#16) :
    (Instr.sys (opNnn w)).wellFormed = true := by
  have hne {v : Word} (hv : formatA 0x0 (opNnn v) = v) (hw : w ≠ v) : opNnn w ≠ opNnn v :=
    fun e => hw (by rw [← h, e, hv])
  simp only [Instr.wellFormed, Bool.and_eq_true, bne_iff_ne]
  exact ⟨hne (v := 0x00E0) (by decide) hcls, hne (v := 0x00EE) (by decide) hret⟩

/-! What the decoder can answer, said once. -/

/-- The words of the three classes of R99. -/
def InvalidWord (w : Word) : Prop :=
  (opTop w = 0x8 ∧ opN w ∈ ([0x8, 0x9, 0xA, 0xB, 0xC, 0xD, 0xF] : List Nibble)) ∨
  (opTop w = 0xE ∧ opKk w ∉ ([0x9E, 0xA1] : List Byte)) ∨
  (opTop w = 0xF ∧ opKk w ∉ ([0x07, 0x0A, 0x15, 0x18, 0x1E, 0x29, 0x33, 0x55, 0x65] : List Byte))

/-- What the decoder may answer for a word: a well-formed instruction that is encoded as the word, or an error when the
word is of one of the invalid classes. -/
inductive Reads (w : Word) : Except DecodeError Instr → Prop where
  | instr {i : Instr} (hwf : i.wellFormed = true) (he : encode i = w) : Reads w (.ok i)
  | invalid {e : DecodeError} (h : InvalidWord w) : Reads w (.error e)

theorem reads_decode8Group {w : Word} (h : opTop w = 0x8) : Reads w (decode8Group w) := by
  unfold decode8Group
  split
  case h_10 =>
    refine .invalid (.inl ⟨h, ?_⟩)
    simp only [imp_false, List.mem_cons, List.not_mem_nil, or_false] at *
    bv_omega
  all_goals next hn => exact .instr rfl (formatXYN_of_opTop_opN h hn)

theorem reads_decodeEGroup {w : Word} (h : opTop w = 0xE) : Reads w (decodeEGroup w) := by
  unfold decodeEGroup
  split
  case h_3 =>
    refine .invalid (.inr (.inl ⟨h, ?_⟩))
    simp only [imp_false, List.mem_cons, List.not_mem_nil, or_false] at *
    bv_omega
  all_goals next hk => exact .instr rfl (formatXK_of_opTop_opKk h hk)

theorem reads_decodeFGroup {w : Word} (h : opTop w = 0xF) : Reads w (decodeFGroup w) := by
  unfold decodeFGroup
  split
  case h_10 =>
    refine .invalid (.inr (.inr ⟨h, ?_⟩))
    simp only [imp_false, List.mem_cons, List.not_mem_nil, or_false] at *
    bv_omega
  all_goals next hk => exact .instr rfl (formatXK_of_opTop_opKk h hk)

theorem reads_decodeWord (w : Word) : Reads w (decodeWord w) := by
  unfold decodeWord
  split
  · next hcls => exact .instr rfl hcls.symm
  · next hcls =>
    split
    · next hret => exact .instr rfl hret.symm
    · next hret =>
      split
      · next h => exact .instr (sys_wellFormed (formatA_of_opTop h) hcls hret) (formatA_of_opTop h)
      · next h => exact .instr rfl (formatA_of_opTop h)
      · next h => exact .instr rfl (formatA_of_opTop h)
      · next h => exact .instr rfl (formatXK_of_opTop h)
      · next h => exact .instr rfl (formatXK_of_opTop h)
      · next h => exact .instr rfl (formatXYN_of_opTop h)
      · next h => exact .instr rfl (formatXK_of_opTop h)
      · next h => exact .instr rfl (formatXK_of_opTop h)
      · next h => exact reads_decode8Group (BitVec.eq_of_toNat_eq h)
      · next h => exact .instr rfl (formatXYN_of_opTop h)
      · next h => exact .instr rfl (formatA_of_opTop h)
      · next h => exact .instr rfl (formatA_of_opTop h)
      · next h => exact .instr rfl (formatXK_of_opTop h)
      · next h => exact .instr rfl (formatXYN_of_opTop h)
      · next h => exact reads_decodeEGroup (BitVec.eq_of_toNat_eq h)
      · simp only [imp_false] at *
        exact reads_decodeFGroup (by bv_omega)

theorem encode_of_decodeWord {w : Word} {i : Instr} (h : decodeWord w = .ok i) :
    encode i = w ∧ i.wellFormed = true := by
  cases h ▸ reads_decodeWord w with
  | instr hwf he => exact ⟨he, hwf⟩

theorem invalidWord_of_decodeWord {w : Word} {e : DecodeError} (h : decodeWord w = .error e) : InvalidWord w := by
  cases h ▸ reads_decodeWord w with
  | invalid hw => exact hw

/-! Which words a format gives: each field of the word is a field of the format. -/

theorem formatA_ne_of_opTop {op : Nibble} {nnn : Addr} {w : Word} (h : op ≠ opTop w) : formatA op nnn ≠ w :=
  ne_of_opTop_ne (by rwa [opTop_formatA])

theorem formatXK_ne_of_opTop {op x : Nibble} {kk : Byte} {w : Word} (h : op ≠ opTop w) : formatXK op x kk ≠ w :=
  ne_of_opTop_ne (by rwa [opTop_formatXK])

theorem formatXYN_ne_of_opTop {op x y n : Nibble} {w : Word} (h : op ≠ opTop w) : formatXYN op x y n ≠ w :=
  ne_of_opTop_ne (by rwa [opTop_formatXYN])

theorem formatA_ne_of_opNnn {op : Nibble} {nnn : Addr} {w : Word} (h : nnn ≠ opNnn w) : formatA op nnn ≠ w :=
  fun e => h (by rw [← e, opNnn_formatA])

/-- The word of a well-formed SYS is neither of the two fixed words (R95). -/
theorem encode_sys_ne {nnn : Addr} (h : (Instr.sys nnn).wellFormed = true) :
    encode (.sys nnn) ≠ 0x00E0#16 ∧ encode (.sys nnn) ≠ 0x00EE#16 := by
  simp only [Instr.wellFormed, Bool.and_eq_true, bne_iff_ne] at h
  exact ⟨formatA_ne_of_opNnn h.1, formatA_ne_of_opNnn h.2⟩

/-- Settles O1: by the format of the instruction's word, whose top nibble (and low nibble or low byte, in the three
groups) picks the instruction and whose other fields are its operands. -/
theorem decodeOfEncode : Obligations.DecodeOfEncode := by
  unfold Obligations.DecodeOfEncode
  intro i hwf
  cases i
  case cls | ret => rfl
  case sys nnn =>
    obtain ⟨hcls, hret⟩ := encode_sys_ne hwf
    rw [decodeWord, if_neg hcls, if_neg hret]
    simp [encode, opTop_formatA, opNnn_formatA]
  case jp | call | ldI | jpV0 =>
    simp (disch := decide) [encode, decodeWord, formatA_ne_of_opTop, opTop_formatA, opNnn_formatA]
  case seImm | sneImm | ldImm | addImm | rnd =>
    simp (disch := decide) [encode, decodeWord, formatXK_ne_of_opTop, opTop_formatXK, opX_formatXK, opKk_formatXK]
  case seReg | sneReg | drw =>
    simp (disch := decide) [encode, decodeWord, formatXYN_ne_of_opTop, opTop_formatXYN, opX_formatXYN, opY_formatXYN,
      opN_formatXYN]
  case ldReg | orReg | andReg | xorReg | addReg | subReg | shr | subnReg | shl =>
    simp (disch := decide) [encode, decodeWord, decode8Group, formatXYN_ne_of_opTop, opTop_formatXYN, opX_formatXYN,
      opY_formatXYN, opN_formatXYN]
  case skp | sknp =>
    simp (disch := decide) [encode, decodeWord, decodeEGroup, formatXK_ne_of_opTop, opTop_formatXK, opX_formatXK,
      opKk_formatXK]
  case ldVxDt | ldVxK | ldDtVx | ldStVx | addI | ldF | ldB | stRegs | ldRegs =>
    simp (disch := decide) [encode, decodeWord, decodeFGroup, formatXK_ne_of_opTop, opTop_formatXK, opX_formatXK,
      opKk_formatXK]

/-- Settles O2: by what the decoder can answer. -/
theorem encodeOfDecode : Obligations.EncodeOfDecode := by
  unfold Obligations.EncodeOfDecode
  exact fun _ _ h => encode_of_decodeWord h

/-! The opcode map (R98). -/

section
open Laws.EncodeFitsRow

/-- The word of a well-formed instruction fits the instruction's row: the family EncodeFitsRow, in the table's order. -/
theorem encode_fits_row (i : Instr) : Statement i :=
  Instr.casesOn (motive := Statement) i cls ret sys jp call seImm sneImm seReg ldImm addImm ldReg orReg andReg xorReg
    addReg subReg shr subnReg shl sneReg ldI jpV0 rnd drw skp sknp ldVxDt ldVxK ldDtVx ldStVx addI ldF ldB stRegs ldRegs

end

theorem fits_iff {r : OpRow} {w : Word} : r.fits w = true ↔ w &&& r.mask = r.pat := beq_iff_eq

/-- Two rows that one word fits agree where both look. -/
theorem pat_and_mask_of_fits {r r' : OpRow} {w : Word} (h : r.fits w = true) (h' : r'.fits w = true) :
    r.pat &&& r'.mask = r'.pat &&& r.mask := by
  rw [← fits_iff.mp h, ← fits_iff.mp h', BitVec.and_assoc, BitVec.and_assoc, BitVec.and_comm r.mask]

/-- The row of SYS is the one row that shares words with a row above it. -/
theorem row_eq_sys_of_overlap : ∀ j k : Fin 35, j < k →
    opRows[j].pat &&& opRows[k].mask = opRows[k].pat &&& opRows[j].mask → k = 2 := by
  decide

theorem eq_sys_of_row {i : Instr} (h : i.row = 2) : ∃ nnn, i = .sys nnn := by
  cases i
  case sys nnn => exact ⟨nnn, rfl⟩
  all_goals cases h

/-- A row that looks at every bit takes one word. -/
theorem eq_of_fits_full {v w : Word} (h : OpRow.fits ⟨0xFFFF, v⟩ w = true) : w = v :=
  BitVec.and_allOnes.symm.trans (fits_iff.mp h)

/-- No row above an instruction's own takes its word: the one overlap is of SYS with CLS and RET, whose words a
well-formed SYS does not have. -/
theorem not_fits_above {i : Instr} (hwf : i.wellFormed = true) {j : Nat} (hlt : j < i.row) (hj : j < opRows.length) :
    ¬ opRows[j].fits (encode i) = true := by
  intro hfit
  obtain ⟨r, hr, hown⟩ := encode_fits_row i hwf
  obtain ⟨hk, rfl⟩ := List.getElem?_eq_some_iff.mp hr
  have hrow : (⟨i.row, hk⟩ : Fin 35) = 2 := row_eq_sys_of_overlap ⟨j, hj⟩ _ hlt (pat_and_mask_of_fits hfit hown)
  obtain ⟨nnn, rfl⟩ := eq_sys_of_row (congrArg Fin.val hrow)
  obtain ⟨hcls, hret⟩ := encode_sys_ne hwf
  match j, hlt with
  | 0, _ => exact hcls (eq_of_fits_full hfit)
  | 1, _ => exact hret (eq_of_fits_full hfit)

/-! The fields that a row fixes. -/

theorem opTop_and (v w : Word) : opTop (v &&& w) = opTop v &&& opTop w := BitVec.extractLsb'_and
theorem opN_and (v w : Word) : opN (v &&& w) = opN v &&& opN w := BitVec.extractLsb'_and
theorem opKk_and (v w : Word) : opKk (v &&& w) = opKk v &&& opKk w := BitVec.extractLsb'_and

theorem opTop_of_fits {r : OpRow} {w : Word} (h : r.fits w = true) (hm : opTop r.mask = BitVec.allOnes 4) :
    opTop w = opTop r.pat := by
  rw [← fits_iff.mp h, opTop_and, hm, BitVec.and_allOnes]

theorem opN_of_fits {r : OpRow} {w : Word} (h : r.fits w = true) (hm : opN r.mask = BitVec.allOnes 4) :
    opN w = opN r.pat := by
  rw [← fits_iff.mp h, opN_and, hm, BitVec.and_allOnes]

theorem opKk_of_fits {r : OpRow} {w : Word} (h : r.fits w = true) (hm : opKk r.mask = BitVec.allOnes 8) :
    opKk w = opKk r.pat := by
  rw [← fits_iff.mp h, opKk_and, hm, BitVec.and_allOnes]

theorem opTop_mask : ∀ r ∈ opRows, opTop r.mask = BitVec.allOnes 4 := by decide

theorem rows_of_8Group : ∀ r ∈ opRows, opTop r.pat = 0x8 →
    opN r.mask = BitVec.allOnes 4 ∧ opN r.pat ∉ ([0x8, 0x9, 0xA, 0xB, 0xC, 0xD, 0xF] : List Nibble) := by decide

theorem rows_of_EGroup : ∀ r ∈ opRows, opTop r.pat = 0xE →
    opKk r.mask = BitVec.allOnes 8 ∧ opKk r.pat ∈ ([0x9E, 0xA1] : List Byte) := by decide

theorem rows_of_FGroup : ∀ r ∈ opRows, opTop r.pat = 0xF →
    opKk r.mask = BitVec.allOnes 8 ∧
      opKk r.pat ∈ ([0x07, 0x0A, 0x15, 0x18, 0x1E, 0x29, 0x33, 0x55, 0x65] : List Byte) := by decide

/-- A word of one of the three classes fits no row of its group, nor any other row. -/
theorem not_fits_of_invalidWord {w : Word} (hw : InvalidWord w) {r : OpRow} (hr : r ∈ opRows) : ¬ r.fits w = true := by
  intro h
  have htop : opTop w = opTop r.pat := opTop_of_fits h (opTop_mask r hr)
  rcases hw with ⟨h8, hn⟩ | ⟨hE, hkk⟩ | ⟨hF, hkk⟩
  · obtain ⟨hmask, hpat⟩ := rows_of_8Group r hr (htop ▸ h8)
    exact hpat (opN_of_fits h hmask ▸ hn)
  · obtain ⟨hmask, hpat⟩ := rows_of_EGroup r hr (htop ▸ hE)
    exact hkk (opKk_of_fits h hmask ▸ hpat)
  · obtain ⟨hmask, hpat⟩ := rows_of_FGroup r hr (htop ▸ hF)
    exact hkk (opKk_of_fits h hmask ▸ hpat)

/-- Settles O4: a word that decodes is the word of its instruction and fits a row, and no word of the classes does. -/
theorem invalidWordsAreTheThreeClasses : Obligations.InvalidWordsAreTheThreeClasses := by
  unfold Obligations.InvalidWordsAreTheThreeClasses
  refine fun w => ⟨fun ⟨_, h⟩ => invalidWord_of_decodeWord h, fun (hw : InvalidWord w) => ?_⟩
  cases hd : decodeWord w with
  | error e => exact ⟨e, rfl⟩
  | ok i =>
    obtain ⟨rfl, hwf⟩ := encode_of_decodeWord hd
    obtain ⟨r, hr, hfit⟩ := encode_fits_row i hwf
    exact absurd hfit (not_fits_of_invalidWord hw (List.mem_of_getElem? hr))

/-- Settles O3: the decoded instruction's row fits its word and none above does; an invalid word fits none. -/
theorem decodeTakesFirstFittingRow : Obligations.DecodeTakesFirstFittingRow := by
  unfold Obligations.DecodeTakesFirstFittingRow
  refine ⟨rfl, fun w => Eq.symm ?_⟩
  cases hd : decodeWord w with
  | error e =>
    have hw := invalidWord_of_decodeWord hd
    exact List.findIdx?_eq_none_iff.mpr fun r hr => Bool.eq_false_of_not_eq_true (not_fits_of_invalidWord hw hr)
  | ok i =>
    obtain ⟨rfl, hwf⟩ := encode_of_decodeWord hd
    obtain ⟨r, hr, hfit⟩ := encode_fits_row i hwf
    obtain ⟨hlt, rfl⟩ := List.getElem?_eq_some_iff.mp hr
    exact List.findIdx?_eq_some_iff_getElem.mpr ⟨hlt, hfit, fun j hj => not_fits_above hwf hj _⟩

end Sys2Proof.Proofs
end

section
namespace Sys2Proof.Proofs

open Sys2Proof.Machine
open Sys2Proof.Safety

/-! The register and ALU instructions (spec/40_alu.md R120 to R133). First the two ends they share, and the operators of
the model as the arithmetic the spec writes. -/

theorem setsRegister_of_exec {i : Instr} {x : Nibble} {val b : State → Byte}
    (h : ∀ s, exec i s = .next (s.setV x (b s)).advance) (hb : ∀ s, b s = val s) : SetsRegister i x val := by
  refine fun s => ⟨_, h s, rfl, rfl, ?_, fun z hz => ?_, keepsAllBut_then_jumpTo (keepsAllBut_setV s _ _)⟩
  · rw [getV_advance, getV_setV, if_pos rfl, hb]
  · rw [getV_advance, getV_setV, if_neg hz]

theorem getV_flag_setFlagged_advance {s : State} {x : Nibble} (c : Bool) (r : Byte) (hx : x ≠ 15) :
    (s.setFlagged x (flagByte c) r).advance.getV 15 = if c then 1 else 0 := by
  rw [getV_advance, getV_setFlagged, if_neg hx.symm]
  exact if_pos rfl

/-- The result is written after the flag (R120 (b)), so it is what Vx holds for x = 15 too. -/
theorem setsRegisterAndFlag_of_exec {i : Instr} {x : Nibble} {val b : State → Byte} {flag : State → Prop}
    {c : State → Bool} (h : ∀ s, exec i s = .next (s.setFlagged x (flagByte (c s)) (b s)).advance)
    (hb : ∀ s, b s = val s) (hc : ∀ s, c s = true ↔ flag s) : SetsRegisterAndFlag i x val flag := by
  refine fun s => ⟨_, h s, rfl, rfl, ?_, fun hx => ⟨fun hf => ?_, fun hf => ?_⟩, fun z hz h15 => ?_,
    keepsAllBut_then_jumpTo (keepsAllBut_setFlagged s _ _ _)⟩
  · rw [getV_advance, getV_setFlagged, if_pos rfl, hb]
  · rw [getV_flag_setFlagged_advance _ _ hx, if_pos ((hc s).mpr hf)]
  · rw [getV_flag_setFlagged_advance _ _ hx, if_neg (mt (hc s).mp hf)]
  · rw [getV_advance, getV_setFlagged, if_neg hz]
    exact if_neg h15

theorem eq_ofFnLE_of_getLsbD {a : Byte} {f : Fin 8 → Bool} (h : ∀ k : Fin 8, a.getLsbD k = f k) :
    a = BitVec.ofFnLE f := by
  ext k hk
  rw [BitVec.getElem_ofFnLE]
  exact h ⟨k, hk⟩

section
variable (a b : Byte)

theorem add_eq_ofNat_mod : a + b = BitVec.ofNat 8 ((a.toNat + b.toNat) % 256) := by bv_omega

theorem sub_eq_ofInt : a - b = BitVec.ofInt 8 ((a.toNat : Int) - (b.toNat : Int)) := by
  apply BitVec.eq_of_toNat_eq
  rw [BitVec.toNat_ofInt, BitVec.toNat_sub]
  omega

theorem ushiftRight_one_eq_ofNat : a >>> 1 = BitVec.ofNat 8 (a.toNat / 2) := by bv_omega

theorem shiftLeft_one_eq_ofNat_mod : a <<< 1 = BitVec.ofNat 8 (a.toNat * 2 % 256) := by bv_omega

end

/-! What does not read the random input gives the same result with another byte on the port. -/

section
variable (s : State) (r : Byte)

theorem driveRnd_withCells {body body' : State} (op : Word) (n : Nat) (hb : body' = body.driveRnd r) :
    (s.driveRnd r).withCells op n body' = (s.withCells op n body).driveRnd r := by
  rw [hb, State.withCells, State.withCells, apply_ite (State.driveRnd · r)]
  rfl

theorem driveRnd_skipOnKey (op : Word) (k : Byte) (down : Bool) :
    (s.driveRnd r).skipOnKey op k down = (s.skipOnKey op k down).driveRnd r := by
  rw [State.skipOnKey, State.skipOnKey, apply_ite (State.driveRnd · r)]
  rfl

theorem execLdVxK_driveRnd (x : Nibble) :
    execLdVxK x (s.driveRnd r) = mapNext (·.driveRnd r) (execLdVxK x s) := by
  rw [execLdVxK, execLdVxK, mapNext, apply_ite (State.driveRnd · r)]
  rfl

theorem execCall_driveRnd (nnn : Addr) :
    execCall nnn (s.driveRnd r) = mapNext (·.driveRnd r) (execCall nnn s) := by
  rw [execCall, execCall, apply_ite (mapNext _), apply_dite (mapNext _)]
  rfl

theorem execRet_driveRnd : execRet (s.driveRnd r) = mapNext (·.driveRnd r) (execRet s) := by
  rw [execRet, execRet, apply_ite (mapNext _), apply_dite (mapNext _)]
  rfl

/-- An instruction other than RND ignores the random input (R133). -/
theorem exec_driveRnd {i : Instr} (hi : ∀ (x : Nibble) (kk : Byte), i ≠ .rnd x kk) :
    exec i (s.driveRnd r) = mapNext (·.driveRnd r) (exec i s) := by
  cases i
  case rnd x kk => exact absurd rfl (hi x kk)
  case call => exact execCall_driveRnd s r _
  case ret => exact execRet_driveRnd s r
  case ldVxK => exact execLdVxK_driveRnd s r _
  case skp | sknp => exact congrArg Host.Outcome.next (driveRnd_skipOnKey s r _ _ _)
  case drw | ldB | stRegs | ldRegs => exact congrArg Host.Outcome.next (driveRnd_withCells s r _ _ rfl)
  -- Every other instruction has one branch, whose updates and the port's act on different fields.
  all_goals rfl

end

/-- Settles O12: RND by its one write, every other instruction by its updates, none of which reads the port. -/
theorem randomInputReachesRndAlone : Obligations.RandomInputReachesRndAlone := by
  unfold Obligations.RandomInputReachesRndAlone
  exact ⟨fun x kk => ⟨decodeOfEncode (.rnd x kk) rfl, setsRegister_of_exec (fun _ => rfl) fun _ => rfl⟩,
    fun _ s r hi => exec_driveRnd s r hi⟩

/-- Settles O6: each load is one write of Vx. -/
theorem loadsSetOneRegister : Obligations.LoadsSetOneRegister := by
  unfold Obligations.LoadsSetOneRegister
  exact ⟨fun x kk => ⟨decodeOfEncode (.ldImm x kk) rfl, setsRegister_of_exec (fun _ => rfl) fun _ => rfl⟩,
    fun x y => ⟨decodeOfEncode (.ldReg x y) rfl, setsRegister_of_exec (fun _ => rfl) fun _ => rfl⟩⟩

/-- Settles O7: one write of Vx, with the sum of bytes as the exact sum modulo 256. -/
theorem immediateAddWraps : Obligations.ImmediateAddWraps := by
  unfold Obligations.ImmediateAddWraps
  exact fun x kk => ⟨decodeOfEncode (.addImm x kk) rfl,
    setsRegister_of_exec (fun _ => rfl) fun _ => BitVec.add_def _ _⟩

/-- Settles O8: one write of Vx, with each operator as its connective at every bit. -/
theorem logicLeavesFlag : Obligations.LogicLeavesFlag := by
  unfold Obligations.LogicLeavesFlag
  exact fun x y => ⟨decodeOfEncode (.orReg x y) rfl, decodeOfEncode (.andReg x y) rfl,
    decodeOfEncode (.xorReg x y) rfl,
    setsRegister_of_exec (fun _ => rfl) fun _ => eq_ofFnLE_of_getLsbD fun _ => BitVec.getLsbD_or,
    setsRegister_of_exec (fun _ => rfl) fun _ => eq_ofFnLE_of_getLsbD fun _ => BitVec.getLsbD_and,
    setsRegister_of_exec (fun _ => rfl) fun _ => eq_ofFnLE_of_getLsbD fun _ => BitVec.getLsbD_xor⟩

/-- Settles O9: the sum of bytes as the exact sum modulo 256, with the carry that the exact sum decides. -/
theorem addSetsCarry : Obligations.AddSetsCarry := by
  unfold Obligations.AddSetsCarry
  exact fun x y => ⟨decodeOfEncode (.addReg x y) rfl,
    setsRegisterAndFlag_of_exec (fun _ => rfl) (fun _ => add_eq_ofNat_mod _ _) fun _ => decide_eq_true_iff⟩

/-- Settles O10: the difference of bytes as the exact difference modulo 256, with the comparison as the flag. -/
theorem subtractsSetStrictFlag : Obligations.SubtractsSetStrictFlag := by
  unfold Obligations.SubtractsSetStrictFlag
  exact fun x y => ⟨decodeOfEncode (.subReg x y) rfl, decodeOfEncode (.subnReg x y) rfl,
    setsRegisterAndFlag_of_exec (fun _ => rfl) (fun _ => sub_eq_ofInt _ _) fun _ => decide_eq_true_iff,
    setsRegisterAndFlag_of_exec (fun _ => rfl) (fun _ => sub_eq_ofInt _ _) fun _ => decide_eq_true_iff⟩

/-- Settles O11: the half and the double of Vx, with the dropped bit itself as the flag. -/
theorem shiftsUseVxAlone : Obligations.ShiftsUseVxAlone := by
  unfold Obligations.ShiftsUseVxAlone
  exact fun x y => ⟨decodeOfEncode (.shr x y) rfl, decodeOfEncode (.shl x y) rfl,
    setsRegisterAndFlag_of_exec (fun _ => rfl) (fun _ => ushiftRight_one_eq_ofNat _) fun _ => Iff.rfl,
    setsRegisterAndFlag_of_exec (fun _ => rfl) (fun _ => shiftLeft_one_eq_ofNat_mod _) fun _ => Iff.rfl⟩

end Sys2Proof.Proofs
end

section
namespace Sys2Proof.Proofs

open Sys2Proof.Machine
open Sys2Proof.Safety

/-! The index register and memory instructions (spec/41_index_memory.md R150 to R156). First the three writes of I, then
the two ends of the range check (R150 (c)), then what a block write in range leaves. -/

theorem setsIndex_of_exec {i : Instr} {val w : State → Word} (h : ∀ s, exec i s = .next (s.setI (w s)).advance)
    (hw : ∀ s, w s = val s) : SetsIndex i val :=
  fun s => ⟨_, h s, rfl, rfl, hw s, keepsAllBut_then_jumpTo (keepsAllBut_setI s _)⟩

theorem addrWord_eq_ofNat (nnn : Addr) : addrWord nnn = BitVec.ofNat 16 nnn.toNat := (BitVec.ofNat_toNat 16 nnn).symm

theorem indexSum_eq_ofNat_mod (i : Word) (b : Byte) :
    indexSum i b = BitVec.ofNat 16 ((i.toNat + b.toNat) % 65536) :=
  BitVec.eq_of_toNat_eq (Nat.mod_mod _ _).symm

/-- Settles O14: each of the three is one write of I, with the value as the number the spec writes. -/
theorem indexWritesSetIndex : Obligations.IndexWritesSetIndex := by
  unfold Obligations.IndexWritesSetIndex
  exact ⟨fun nnn => ⟨decodeOfEncode (.ldI nnn) rfl, setsIndex_of_exec (fun _ => rfl) fun _ => addrWord_eq_ofNat _⟩,
    fun x => ⟨decodeOfEncode (.addI x) rfl, setsIndex_of_exec (fun _ => rfl) fun _ => indexSum_eq_ofNat_mod _ _⟩,
    fun x => ⟨decodeOfEncode (.ldF x) rfl, setsIndex_of_exec (fun _ => rfl) fun _ => rfl⟩⟩

section
variable {i : Instr} {s body : State} {n : Nat}

/-- An instruction whose last cell is inside memory is its body. -/
theorem exec_of_cells_le (he : exec i s = .next (s.withCells (encode i) n body)) (h : s.i.toNat + n ≤ 4096) :
    exec i s = .next body := by
  rw [he, State.withCells, if_pos (.inl h)]

/-- An instruction whose last cell is above memory raises AddressOutOfRange, whatever its body. -/
theorem exec_raises_of_cells_gt (he : exec i s = .next (s.withCells (encode i) (n + 1) body))
    (h : 4096 < s.i.toNat + (n + 1)) :
    ∃ t, exec i s = .next t ∧ Raised .addressOutOfRange (encode i) (lowestBad s.i) s t := by
  refine ⟨_, he, ?_⟩
  rcases withCells_cases s (encode i) (n + 1) body with ⟨hr, -⟩ | ⟨-, -, e⟩
  · omega
  · rw [e, firstBad_eq_lowestBad]
    rfl

end

section
variable (m : Memory) {a b k : Nat} {xs : List Byte}

theorem read_writeBytes_of_getElem_some {x : Byte} (e : xs[k]? = some x) : (m.writeBytes a xs).read (a + k) = x := by
  obtain ⟨hk, rfl⟩ := List.getElem?_eq_some_iff.mp e
  rw [read_writeBytes, if_pos ⟨Nat.le_add_right a k, Nat.add_lt_add_left hk a⟩, Nat.add_sub_cancel_left,
    List.getD_eq_getElem _ _ hk]

theorem toNat_read_writeBytes_of_getElem_some {d : Nat} (hd : d < 256) (e : xs[k]? = some (BitVec.ofNat 8 d)) :
    ((m.writeBytes a xs).read (a + k)).toNat = d := by
  rw [read_writeBytes_of_getElem_some m e, BitVec.toNat_ofNat, Nat.mod_eq_of_lt hd]

theorem read_writeBytes_outside (h : b < a ∨ a + xs.length ≤ b) : (m.writeBytes a xs).read b = m.read b := by
  rw [read_writeBytes, if_neg (by omega)]

end

/-- The three stored bytes as numbers: each digit is below 256 (R154). -/
theorem read_writeBytes_bcdDigits (m : Memory) (a : Nat) (v : Byte) :
    ((m.writeBytes a (bcdDigits v)).read a).toNat = v.toNat / 100 ∧
    ((m.writeBytes a (bcdDigits v)).read (a + 1)).toNat = v.toNat / 10 % 10 ∧
    ((m.writeBytes a (bcdDigits v)).read (a + 2)).toNat = v.toNat % 10 := by
  have hv := v.isLt
  exact ⟨toNat_read_writeBytes_of_getElem_some (k := 0) m (by omega) rfl,
    toNat_read_writeBytes_of_getElem_some m (by omega) rfl, toNat_read_writeBytes_of_getElem_some m (by omega) rfl⟩

/-- Settles O15: the range check decides between the write of the three digits and the fault. -/
theorem bcdStoresThreeDigits : Obligations.BcdStoresThreeDigits := by
  unfold Obligations.BcdStoresThreeDigits
  refine fun x => ⟨decodeOfEncode (.ldB x) rfl, fun s => ⟨fun hin => ?_, fun hout => ?_⟩⟩
  · obtain ⟨hundreds, tens, ones⟩ := read_writeBytes_bcdDigits s.mem s.i.toNat (s.getV x)
    refine ⟨_, exec_of_cells_le (i := .ldB x) rfl (by omega), rfl, rfl, hundreds, tens, ones, fun a ha => ?_,
      keepsAllBut_then_jumpTo (keepsAllBut_setMem s _)⟩
    have hlen : (bcdDigits (s.getV x)).length = 3 := rfl
    exact read_writeBytes_outside s.mem (by omega)
  · exact exec_raises_of_cells_gt (i := .ldB x) rfl (by omega)

/-- Settles O16: the range check decides between the write of the first x + 1 registers and the fault. -/
theorem blockStoreStoresRegisters : Obligations.BlockStoreStoresRegisters := by
  unfold Obligations.BlockStoreStoresRegisters
  refine fun x => ⟨decodeOfEncode (.stRegs x) rfl, fun s => ⟨fun hin => ?_, fun hout => ?_⟩⟩
  · refine ⟨_, execStRegs_of_le hin, rfl, rfl, fun k hk => read_writeBytes_firstRegs s hk, fun a ha => ?_,
      keepsAllBut_then_jumpTo (keepsAllBut_setMem s _)⟩
    have hlen : (s.firstRegs (x.toNat + 1)).length = x.toNat + 1 := length_firstRegs s _ x.isLt
    exact read_writeBytes_outside s.mem (by omega)
  · exact exec_raises_of_cells_gt (i := .stRegs x) rfl (by omega)

/-- Settles O17: the range check decides between the load of the first x + 1 registers and the fault. -/
theorem blockLoadLoadsRegisters : Obligations.BlockLoadLoadsRegisters := by
  unfold Obligations.BlockLoadLoadsRegisters
  refine fun x => ⟨decodeOfEncode (.ldRegs x) rfl, fun s => ⟨fun hin => ?_, fun hout => ?_⟩⟩
  · refine ⟨_, exec_of_cells_le (i := .ldRegs x) rfl (by omega), rfl, rfl, fun k hk => ?_, fun k hk => ?_,
      keepsAllBut_then_jumpTo (keepsAllBut_loadFirstRegs s _)⟩
    · rw [getV_advance, getV_loadFirstRegs, if_pos (by omega)]
    · rw [getV_advance, getV_loadFirstRegs, if_neg (by omega)]
  · exact exec_raises_of_cells_gt (i := .ldRegs x) rfl (by omega)

end Sys2Proof.Proofs
end

section
namespace Sys2Proof.Proofs

open Sys2Proof.Machine
open Sys2Proof.Safety

/-! The display instructions (spec/42_display.md R170 to R174). A pixel is read by its offset from the sprite's corner: the
sprite has at most one bit with that offset, so the loops XOR the pixel with that bit once or leave it. -/

/-- Settles O19: the blank display replaces the framebuffer. -/
theorem clearDarkensEveryPixel : Obligations.ClearDarkensEveryPixel := by
  unfold Obligations.ClearDarkensEveryPixel
  exact ⟨decodeOfEncode .cls rfl, fun s =>
    ⟨_, rfl, rfl, rfl, get_blank, keepsAllBut_then_jumpTo (keepsAllBut_setFb s _)⟩⟩

/-- How many columns right of column `vx` a column lies, with wrapping. -/
def colOffset (vx : Byte) (col : Fin 64) : Nat := (col.val + 256 - vx.toNat) % 64

/-- How many rows below row `vy` a row lies, with wrapping. -/
def rowOffset (vy : Byte) (row : Fin 32) : Nat := (row.val + 256 - vy.toNat) % 32

theorem colOffset_eq_iff {vx : Byte} {col : Fin 64} {c : Nat} (hc : c < 64) :
    colOffset vx col = c ↔ col.val = (vx.toNat + c) % 64 := by
  have := vx.isLt
  rw [colOffset]
  omega

theorem rowOffset_eq_iff {vy : Byte} {row : Fin 32} {r : Nat} (hr : r < 32) :
    rowOffset vy row = r ↔ row.val = (vy.toNat + r) % 32 := by
  have := vy.isLt
  rw [rowOffset]
  omega

theorem eq_spriteCol_iff {vx : Byte} {col : Fin 64} {c : Nat} (hc : c < 64) :
    col = spriteCol vx c ↔ colOffset vx col = c :=
  Fin.ext_iff.trans (colOffset_eq_iff hc).symm

theorem eq_spriteRow_iff {vy : Byte} {row : Fin 32} {r : Nat} (hr : r < 32) :
    row = spriteRow vy r ↔ rowOffset vy row = r :=
  Fin.ext_iff.trans (rowOffset_eq_iff hr).symm

/-- The bit that a row byte has for the columns with an offset below `c`, 0 for the others. -/
def rowBit (vx b : Byte) (c : Nat) (col : Fin 64) : Bool :=
  decide (colOffset vx col < c) && b.getLsbD (7 - colOffset vx col)

/-- The bit that the `n` sprite rows at `base` have for a pixel, 0 for a pixel outside the sprite. -/
def spriteBit (m : Memory) (base : Nat) (vx vy : Byte) (n : Nat) (row : Fin 32) (col : Fin 64) : Bool :=
  decide (rowOffset vy row < n) && rowBit vx (m.read (base + rowOffset vy row)) 8 col

section
variable (m : Memory) (base : Nat) {vx vy : Byte} {n : Nat} {row : Fin 32} {col : Fin 64}

theorem spriteBit_at_offset {r c : Nat} (hn : n ≤ 32) (hr : r < n) (hc : c < 8)
    (hrow : row.val = (vy.toNat + r) % 32) (hcol : col.val = (vx.toNat + c) % 64) :
    spriteBit m base vx vy n row col = (m.read (base + r)).getLsbD (7 - c) := by
  have hrow' : rowOffset vy row = r := (rowOffset_eq_iff (by omega)).mpr hrow
  have hcol' : colOffset vx col = c := (colOffset_eq_iff (by omega)).mpr hcol
  simp [spriteBit, rowBit, hrow', hcol', hr, hc]

theorem spriteBit_outside (hn : n ≤ 32)
    (hout : ∀ r c : Nat, r < n → c < 8 → ¬ (row.val = (vy.toNat + r) % 32 ∧ col.val = (vx.toNat + c) % 64)) :
    spriteBit m base vx vy n row col = false := by
  by_contra h
  simp only [spriteBit, rowBit, Bool.not_eq_false, Bool.and_eq_true, decide_eq_true_eq] at h
  obtain ⟨hr, hc, -⟩ := h
  exact hout _ _ hr hc ⟨(rowOffset_eq_iff (by omega)).mp rfl, (colOffset_eq_iff (by omega)).mp rfl⟩

end

section
variable (k : Canvas) (m : Memory) (base : Nat) (vx vy : Byte)

theorem get_plotCols {c r : Nat} (hc : c ≤ 8) (hr : r < 32) (b : Byte) (row : Fin 32) (col : Fin 64) :
    Display.get (k.plotCols vx vy r b c).fb row col =
      (Display.get k.fb row col ^^ (decide (rowOffset vy row = r) && rowBit vx b c col)) := by
  induction c with
  | zero => simp [Canvas.plotCols, rowBit]
  | succ c ih =>
    have hc' : c < 64 := by omega
    simp only [Canvas.plotCols, get_plot, ih (by omega), eq_spriteRow_iff hr, eq_spriteCol_iff hc']
    by_cases hcol : colOffset vx col = c
    · by_cases hrow : rowOffset vy row = r <;> simp [rowBit, hcol, hrow]
    · have hlt : colOffset vx col < c + 1 ↔ colOffset vx col < c := by omega
      simp [rowBit, hcol, hlt]

theorem get_plotRows {n : Nat} (hn : n ≤ 32) (row : Fin 32) (col : Fin 64) :
    Display.get (k.plotRows m base vx vy n).fb row col =
      (Display.get k.fb row col ^^ spriteBit m base vx vy n row col) := by
  induction n with
  | zero => simp [Canvas.plotRows, spriteBit]
  | succ n ih =>
    rw [Canvas.plotRows, get_plotCols _ _ _ le_rfl hn, ih (by omega)]
    by_cases hrow : rowOffset vy row = n
    · simp [spriteBit, hrow]
    · have hlt : rowOffset vy row < n + 1 ↔ rowOffset vy row < n := by omega
      simp [spriteBit, hrow, hlt]

/-- The flag of a draw is the one of its last bit, whose pixel no bit before has touched. -/
theorem flag_plotRows_succ {n : Nat} (hn : n < 32) {row : Fin 32} {col : Fin 64} (hrow : rowOffset vy row = n)
    (hcol : colOffset vx col = 7) :
    (k.plotRows m base vx vy (n + 1)).flag =
      flagByte (Display.get k.fb row col && (m.read (base + n)).getLsbD 0) := by
  have hlast : (k.plotRows m base vx vy (n + 1)).flag =
      flagByte (Display.get ((k.plotRows m base vx vy n).plotCols vx vy n (m.read (base + n)) 7).fb
        (spriteRow vy n) (spriteCol vx 7) && (m.read (base + n)).getLsbD 0) := rfl
  rw [hlast, ← (eq_spriteRow_iff hn).mpr hrow, ← (eq_spriteCol_iff (by omega)).mpr hcol,
    get_plotCols _ _ _ (by omega) hn, get_plotRows _ _ _ _ _ hn.le]
  simp [spriteBit, rowBit, hrow, hcol]

end

/-! The draw as an operation on the state. -/

section
variable (s : State) (vx vy : Byte)

@[simp] theorem drawSprite_mem (n : Nat) : (s.drawSprite vx vy n).mem = s.mem := rfl
@[simp] theorem drawSprite_i (n : Nat) : (s.drawSprite vx vy n).i = s.i := rfl

theorem get_drawSprite {n : Nat} (hn : n ≤ 32) (row : Fin 32) (col : Fin 64) :
    Display.get (s.drawSprite vx vy n).fb row col =
      (Display.get s.fb row col ^^ spriteBit s.mem s.i.toNat vx vy n row col) :=
  get_plotRows _ _ _ _ _ hn row col

/-- A second draw of the same bytes at the same place XORs each pixel with the same bit again (R174 (d)). -/
theorem get_drawSprite_twice {n : Nat} (hn : n ≤ 32) (row : Fin 32) (col : Fin 64) :
    Display.get ((s.drawSprite vx vy n).advance.drawSprite vx vy n).fb row col = Display.get s.fb row col := by
  rw [get_drawSprite _ _ _ hn, advance_fb, get_drawSprite _ _ _ hn, advance_mem, advance_i, drawSprite_mem,
    drawSprite_i, Bool.xor_assoc, Bool.xor_self, Bool.xor_false]

theorem getV_drawSprite_of_ne (n : Nat) {z : Nibble} (hz : z ≠ 15) : (s.drawSprite vx vy n).getV z = s.getV z := by
  rw [State.drawSprite, getV_setV, getV_setFb]
  exact if_neg hz

theorem getV_flag_drawSprite_succ {n : Nat} (hn : n < 32) {row : Fin 32} {col : Fin 64} (hrow : rowOffset vy row = n)
    (hcol : colOffset vx col = 7) :
    (s.drawSprite vx vy (n + 1)).getV 15 =
      flagByte (Display.get s.fb row col && (s.mem.read (s.i.toNat + n)).getLsbD 0) := by
  rw [State.drawSprite, getV_setV, ← flag_plotRows_succ ⟨s.fb, s.getV vf⟩ _ _ _ _ hn hrow hcol]
  exact if_pos rfl

theorem setV_getV (x : Nibble) : s.setV x (s.getV x) = s := by
  rw [State.setV, State.getV, Vector.set_getElem_self]

/-- With no rows there is no bit, so VF is as it was (decision D13). -/
theorem drawSprite_zero : s.drawSprite vx vy 0 = s := setV_getV s vf

end

theorem exec_drw_of_le {x y n : Nibble} {s : State} (h : s.i.toNat + n.toNat ≤ 0x1000) :
    exec (.drw x y n) s = .next (s.drawSprite (s.getV x) (s.getV y) n.toNat).advance :=
  exec_of_cells_le (i := .drw x y n) rfl h

/-- Settles O20: the loops XOR each pixel with the sprite's bit for it, and the last row's last bit decides VF. -/
theorem drawClosedForm : Obligations.DrawClosedForm := by
  unfold Obligations.DrawClosedForm
  intro x y n s hn hin
  have hlt : n.toNat < 16 := n.isLt
  refine ⟨_, exec_drw_of_le (by omega), rfl, rfl, fun r c row col hr hc hrow hcol => ?_, fun row col hout => ?_,
    fun row col hrow hcol => ?_, fun z hz => ?_, keepsAllBut_then_jumpTo (keepsAllBut_drawSprite s _ _ _)⟩
  · rw [advance_fb, get_drawSprite _ _ _ (by omega), spriteBit_at_offset _ _ (by omega) hr hc hrow hcol]
  · rw [advance_fb, get_drawSprite _ _ _ (by omega), spriteBit_outside _ _ (by omega) hout, Bool.xor_false]
  · obtain ⟨k, hk⟩ : ∃ k, n.toNat = k + 1 := ⟨n.toNat - 1, by omega⟩
    rw [hk, ← Nat.add_assoc, Nat.add_sub_cancel] at hrow ⊢
    rw [getV_advance]
    exact getV_flag_drawSprite_succ s _ _ (by omega) ((rowOffset_eq_iff (by omega)).mpr hrow)
      ((colOffset_eq_iff (by omega)).mpr hcol)
  · rw [getV_advance, getV_drawSprite_of_ne _ _ _ _ hz]

/-- Settles O23: with x and y other than 15 the second draw has the place of the first. -/
theorem drawTwiceRestoresDisplay : Obligations.DrawTwiceRestoresDisplay := by
  unfold Obligations.DrawTwiceRestoresDisplay
  intro x y n s hx hy hin
  have hlt : n.toNat < 16 := n.isLt
  refine ⟨_, _, exec_drw_of_le hin, exec_drw_of_le hin, fun row col => ?_⟩
  rw [getV_advance, getV_advance, getV_drawSprite_of_ne _ _ _ _ hx, getV_drawSprite_of_ne _ _ _ _ hy, advance_fb]
  exact get_drawSprite_twice s _ _ (by omega) row col

/-- Settles O21: no rows pass the range check wherever I points, and drawing them is the identity. -/
theorem drawOfNoRowsChangesNothing : Obligations.DrawOfNoRowsChangesNothing := by
  unfold Obligations.DrawOfNoRowsChangesNothing
  refine fun x y => ⟨decodeOfEncode (.drw x y 0) rfl, fun s => ⟨s.advance, ?_, rfl, rfl, keepsAllBut_jumpTo s _⟩⟩
  have hbody : exec (.drw x y 0) s = .next (s.drawSprite (s.getV x) (s.getV y) 0).advance :=
    congrArg Host.Outcome.next (if_pos (.inr rfl))
  rw [hbody, drawSprite_zero]

/-- Settles O22: the range check fails, so the fault is taken in place of the draw. -/
theorem drawOutOfRangeRaises : Obligations.DrawOutOfRangeRaises := by
  unfold Obligations.DrawOutOfRangeRaises
  refine fun x y n => ⟨decodeOfEncode (.drw x y n) rfl, fun s hn hout => ?_⟩
  obtain ⟨k, hk⟩ : ∃ k, n.toNat = k + 1 := ⟨n.toNat - 1, by omega⟩
  have he : exec (.drw x y n) s = .next (s.withCells (encode (.drw x y n)) (k + 1)
      (s.drawSprite (s.getV x) (s.getV y) (k + 1)).advance) := hk ▸ rfl
  exact exec_raises_of_cells_gt he (by omega)

end Sys2Proof.Proofs
end

section
namespace Sys2Proof.Proofs

open Sys2Proof.Machine
open Sys2Proof.Safety

/-! The keypad and timer instructions (spec/43_keypad_timers.md R190 to R196). First the least key that is down, then the
two ends of the key check. -/

theorem keys_ne_zero_of_keyDown {keys : Word} {k : Nat} (hk : keyDown keys k = true) : keys ≠ 0 := by
  rintro rfl
  simp [keyDown] at hk

/-- The least key is unique: `leastKey` is any key that is down with no key down below it. -/
theorem toNat_leastKey_eq {keys : Word} {k : Nat} (hk : keyDown keys k = true)
    (hmin : ∀ j < k, keyDown keys j = false) : (leastKey keys).toNat = k := by
  obtain ⟨-, hdown, hbelow⟩ := leastKey_spec keys (keys_ne_zero_of_keyDown hk)
  apply le_antisymm
  · exact not_lt.mp fun hlt => Bool.false_ne_true ((hbelow k hlt).symm.trans hk)
  · exact not_lt.mp fun hlt => Bool.false_ne_true ((hmin _ hlt).symm.trans hdown)

theorem exec_ldVxK_of_keys_zero {s : State} (x : Nibble) (h : s.keys = 0) :
    exec (.ldVxK x) s = .next s.waitForKey :=
  congrArg Host.Outcome.next (if_pos h)

theorem exec_ldVxK_of_keys_ne_zero {s : State} (x : Nibble) (h : s.keys ≠ 0) :
    exec (.ldVxK x) s = .next (s.setV x (leastKey s.keys)).advance :=
  congrArg Host.Outcome.next (if_neg h)

/-- Settles O25: the keys decide between the wait and one write of Vx, with the least key as the one of `leastKey`. -/
theorem keyWaitTakesLeastKey : Obligations.KeyWaitTakesLeastKey := by
  unfold Obligations.KeyWaitTakesLeastKey
  refine fun x => ⟨decodeOfEncode (.ldVxK x) rfl, fun s => ⟨exec_ldVxK_of_keys_zero x, fun k _ hk hmin => ?_⟩⟩
  refine ⟨_, exec_ldVxK_of_keys_ne_zero x (keys_ne_zero_of_keyDown hk), rfl, rfl, ?_, fun z hz => ?_,
    keepsAllBut_then_jumpTo (keepsAllBut_setV s _ _)⟩
  · rw [getV_advance, getV_setV, if_pos rfl]
    exact toNat_leastKey_eq hk hmin
  · rw [getV_advance, getV_setV, if_neg hz]

section
variable {i : Instr} {s : State} {k : Byte} {down : Bool}

/-- A key check of a key number is a skip on that key's level. -/
theorem exec_skips_of_key_le (he : exec i s = .next (s.skipOnKey (encode i) k down)) (hk : k.toNat ≤ 15) :
    ∃ t : State, exec i s = .next t ∧ t.status = .ok ∧ KeepsAllBut [] s t ∧
      t.pc = if s.keys.getLsbD k.toNat = down then s.pc + 4 else s.pc + 2 := by
  refine ⟨s.skipIf (keyDown s.keys k.toNat == down), ?_, rfl, keepsAllBut_jumpTo s _, ?_⟩
  · rw [he, State.skipOnKey, if_neg (not_lt.mpr hk)]
  · simp only [skipIf_pc, keyDown, beq_iff_eq]

/-- A key check of a number above 15 raises KeyIndexOutOfRange, whatever the keys are. -/
theorem exec_raises_of_key_gt (he : exec i s = .next (s.skipOnKey (encode i) k down)) (hk : 15 < k.toNat) :
    ∃ t : State, exec i s = .next t ∧ Raised .keyIndexOutOfRange (encode i) 0 s t :=
  ⟨_, he, if_pos hk⟩

end

/-- Settles O24: both skips are the key check of the number that Vx holds. -/
theorem keySkipsTestKeyOfVx : Obligations.KeySkipsTestKeyOfVx := by
  unfold Obligations.KeySkipsTestKeyOfVx
  refine fun x => ⟨decodeOfEncode (.skp x) rfl, decodeOfEncode (.sknp x) rfl, fun s => ⟨fun hk => ?_, fun hk => ?_⟩⟩
  · exact ⟨exec_skips_of_key_le (i := .skp x) rfl hk, exec_skips_of_key_le (i := .sknp x) rfl hk⟩
  · exact ⟨exec_raises_of_key_gt (i := .skp x) rfl hk, exec_raises_of_key_gt (i := .sknp x) rfl hk⟩

/-- Settles O26: each copy is one write, of Vx or of a timer. -/
theorem timerCopies : Obligations.TimerCopies := by
  unfold Obligations.TimerCopies
  exact fun x => ⟨decodeOfEncode (.ldVxDt x) rfl, decodeOfEncode (.ldDtVx x) rfl, decodeOfEncode (.ldStVx x) rfl,
    setsRegister_of_exec (fun _ => rfl) fun _ => rfl,
    fun s => ⟨_, rfl, rfl, rfl, rfl, keepsAllBut_then_jumpTo (keepsAllBut_setDt s _)⟩,
    fun s => ⟨_, rfl, rfl, rfl, rfl, keepsAllBut_then_jumpTo (keepsAllBut_setSt s _)⟩⟩

end Sys2Proof.Proofs
end

section
namespace Sys2Proof.Proofs

open Sys2Proof.Machine
open Sys2Proof.Safety

/-! Control transfer (spec/44_control.md R210 to R219). First the call stack: what CALL and RET answer, by where SP is,
and what an entry reads as after a push. -/

section
variable {nnn : Addr} {s : State}

theorem exec_call_of_full (h : s.sp = 15) :
    exec (.call nnn) s = .next (s.takeFault .stackOverflow (encode (.call nnn)) 0) :=
  if_pos h

theorem exec_call_of_room (h : (s.sp + 1).toNat < 16) :
    exec (.call nnn) s = .next (s.pushCall (s.sp + 1) h (s.pc + 2) (addrWord nnn)) := by
  have hne : s.sp ≠ 15 := by bv_omega
  exact (if_neg hne).trans (dif_pos h)

/-- From -1 to 14 the SP after the push names an entry (spec/10_state.md R27). -/
theorem room_of_spLegal (h : SpLegal s) (hne : s.sp ≠ 15) : (s.sp + 1).toNat < 16 := by
  rcases h with h | h <;> bv_omega

theorem exec_ret_of_empty (h : s.sp = 0xFF) :
    exec .ret s = .next (s.takeFault .stackUnderflow (encode .ret) 0) :=
  if_pos h

theorem exec_ret_of_entry (h : s.sp.toNat < 16) : exec .ret s = .next (s.popReturn h) := by
  have hne : s.sp ≠ 0xFF := by bv_omega
  exact (if_neg hne).trans (dif_pos h)

end

section
variable (stack : Vector Word 16) {j k : Nat} (w : Word)

theorem getD_toList_of_lt (h : k < 16) : stack.toList.getD k 0 = stack[k] := by
  rw [List.getD_eq_getElem _ _ (by simpa using h), Vector.getElem_toList]

theorem getD_toList_set_self (h : k < 16) : (stack.set k w h).toList.getD k 0 = w := by
  rw [getD_toList_of_lt _ h, Vector.getElem_set_self]

theorem getD_toList_set_of_ne (h : k < 16) (hj : j ≠ k) :
    (stack.set k w h).toList.getD j 0 = stack.toList.getD j 0 := by
  rw [Vector.toList_set, List.getD_eq_getElem?_getD, List.getElem?_set_ne hj.symm, ← List.getD_eq_getElem?_getD]

end

theorem toNat_addrWord (nnn : Addr) : (addrWord nnn).toNat = nnn.toNat :=
  BitVec.toNat_setWidth_of_le (by decide)

/-- The sum is exact: it fits 16 bits (R214). -/
theorem toNat_offsetTarget (nnn : Addr) (b : Byte) : (offsetTarget nnn b).toNat = nnn.toNat + b.toNat := by
  have := nnn.isLt
  have := b.isLt
  rw [offsetTarget, BitVec.toNat_ofNat, Nat.mod_eq_of_lt (by omega)]

/-- Settles O29: SP decides between the fault and the push. -/
theorem callPushesReturnAddress : Obligations.CallPushesReturnAddress := by
  unfold Obligations.CallPushesReturnAddress
  refine fun nnn => ⟨decodeOfEncode (.call nnn) rfl, fun s => ⟨fun hfull => ⟨_, exec_call_of_full hfull, rfl⟩,
    fun hs hne => ?_⟩⟩
  have hk := room_of_spLegal hs hne
  exact ⟨_, exec_call_of_room hk, rfl, toNat_addrWord nnn, rfl, Nat.le_of_lt_succ hk, getD_toList_set_self _ _ hk,
    fun _ hj => getD_toList_set_of_ne _ _ hk hj, keepsAllBut_pushCall s _ _ _ _⟩

/-- Settles O30: SP decides between the fault and the pop. -/
theorem returnPopsReturnAddress : Obligations.ReturnPopsReturnAddress := by
  unfold Obligations.ReturnPopsReturnAddress
  refine ⟨decodeOfEncode .ret rfl, fun s => ⟨fun hempty => ⟨_, exec_ret_of_empty hempty, rfl⟩, fun hle => ?_⟩⟩
  have hk := Nat.lt_succ_of_le hle
  exact ⟨_, exec_ret_of_entry hk, rfl, (getD_toList_of_lt s.stack hk).symm, rfl, keepsAllBut_popReturn s hk⟩

/-- Settles O31: the pop reads the entry that the push wrote, and takes SP back by the one the push added. -/
theorem callThenReturnComesBack : Obligations.CallThenReturnComesBack := by
  unfold Obligations.CallThenReturnComesBack
  intro nnn s hs hne
  have hk := room_of_spLegal hs hne
  have hsp : s.sp + 1 - 1 = s.sp := BitVec.add_sub_cancel _ _
  exact ⟨_, _, exec_call_of_room hk, exec_ret_of_entry hk, Vector.getElem_set_self hk, hsp,
    keepsAllBut_of_fields (sp := fun _ => hsp)⟩

/-! The skips, and the policy for all instructions (R210): a checked skip or access that ends with OK raised no fault. -/

theorem pc_skipIf_of_iff (s : State) {c : Bool} {p : Prop} [Decidable p] (h : c = true ↔ p) :
    (s.skipIf c).pc = if p then s.pc + 4 else s.pc + 2 := by
  simp only [skipIf_pc, h]

theorem movesPcOnly_of_skipIf {i : Instr} {c : State → Bool} {p : State → Prop} [∀ s, Decidable (p s)]
    (h : ∀ s, exec i s = .next (s.skipIf (c s))) (hc : ∀ s, c s = true ↔ p s) :
    MovesPcOnly i (fun s => if p s then s.pc + 4 else s.pc + 2) :=
  fun s => ⟨_, h s, rfl, pc_skipIf_of_iff s (hc s), keepsAllBut_jumpTo s _⟩

theorem skipOnKey_of_ok {s : State} {op : Word} {k : Byte} {down : Bool} (h : (s.skipOnKey op k down).status = .ok) :
    s.skipOnKey op k down = s.skipIf (keyDown s.keys k.toNat == down) := by
  unfold State.skipOnKey at h ⊢
  split at h
  · cases h
  · exact if_neg ‹_›

theorem withCells_of_ok {s body : State} {op : Word} {n : Nat} (h : (s.withCells op n body).status = .ok) :
    s.withCells op n body = body := by
  rcases withCells_cases s op n body with ⟨-, e⟩ | ⟨-, -, e⟩
  · exact e
  · rw [e] at h
    cases h

theorem pc_of_exec_call_ok {nnn : Addr} {s t : State} (h : exec (.call nnn) s = .next t) (hok : t.status = .ok) :
    t.pc = policyPc (.call nnn) s := by
  by_cases hs : SpLegal s
  · by_cases hfull : s.sp = 15
    · cases (exec_call_of_full hfull).symm.trans h
      cases hok
    · cases (exec_call_of_room (room_of_spLegal hs hfull)).symm.trans h
      exact addrWord_eq_ofNat nnn
  · cases (execCall_illegal nnn hs).symm.trans h

theorem pc_of_exec_ret_ok {s t : State} (h : exec .ret s = .next t) (hok : t.status = .ok) :
    t.pc = policyPc .ret s := by
  by_cases hempty : s.sp = 0xFF
  · cases (exec_ret_of_empty hempty).symm.trans h
    cases hok
  · by_cases hk : s.sp.toNat < 16
    · cases (exec_ret_of_entry hk).symm.trans h
      exact (getD_toList_of_lt s.stack hk).symm
    · have hs : ¬ SpLegal s := not_or.mpr ⟨hempty, by omega⟩
      cases (execRet_illegal hs).symm.trans h

/-- An instruction that ends with OK leaves PC as the table of R210 says. -/
theorem pc_of_exec_ok {i : Instr} {s t : State} (h : exec i s = .next t) (hok : t.status = .ok) :
    t.pc = policyPc i s := by
  cases i
  case call => exact pc_of_exec_call_ok h hok
  case ret => exact pc_of_exec_ret_ok h hok
  all_goals obtain rfl := Host.Outcome.next.inj h
  case jp nnn => exact addrWord_eq_ofNat nnn
  case seImm | seReg => exact pc_skipIf_of_iff s beq_iff_eq
  case sneImm | sneReg => exact pc_skipIf_of_iff s bne_iff_ne
  case skp | sknp =>
    rw [skipOnKey_of_ok hok]
    exact pc_skipIf_of_iff s beq_iff_eq
  case ldB | stRegs | ldRegs | drw => exact congrArg State.pc (withCells_of_ok hok)
  case ldVxK =>
    split at hok
    · cases hok
    · rw [if_neg ‹_›]
      rfl
  -- Every other instruction takes the default advance, or jumps to the sum that the table writes.
  all_goals rfl

/-- Settles O36: an instruction that waits or raises a fault leaves PC; any other completes, with OK. -/
theorem programCounterPolicy : Obligations.ProgramCounterPolicy := by
  unfold Obligations.ProgramCounterPolicy
  refine fun i s t h => ⟨pc_of_exec_ok h, fun hne => ?_⟩
  cases exec_ends h with
  | completes hc => exact absurd hc.status hne
  | waits | faults => rfl

/-- Settles O28: both targets are exact in 16 bits. -/
theorem jumpsSetPc : Obligations.JumpsSetPc := by
  unfold Obligations.JumpsSetPc
  exact fun nnn => ⟨decodeOfEncode (.jp nnn) rfl, decodeOfEncode (.jpV0 nnn) rfl,
    fun s => ⟨_, rfl, rfl, toNat_addrWord nnn, keepsAllBut_jumpTo s _⟩,
    fun s => ⟨_, rfl, rfl, toNat_offsetTarget nnn _, keepsAllBut_jumpTo s _⟩⟩

/-- Settles O33: each is a skip on the comparison of Vx with kk. -/
theorem immediateSkips : Obligations.ImmediateSkips := by
  unfold Obligations.ImmediateSkips
  exact fun x kk => ⟨decodeOfEncode (.seImm x kk) rfl, decodeOfEncode (.sneImm x kk) rfl,
    movesPcOnly_of_skipIf (fun _ => rfl) fun _ => beq_iff_eq,
    movesPcOnly_of_skipIf (fun _ => rfl) fun _ => bne_iff_ne⟩

/-- Settles O34: each is a skip on the comparison of Vx with Vy, which does not read the low nibble. -/
theorem registerSkips : Obligations.RegisterSkips := by
  unfold Obligations.RegisterSkips
  exact fun x y z => ⟨decodeOfEncode (.seReg x y z) rfl, decodeOfEncode (.sneReg x y z) rfl,
    movesPcOnly_of_skipIf (fun _ => rfl) fun _ => beq_iff_eq,
    movesPcOnly_of_skipIf (fun _ => rfl) fun _ => bne_iff_ne⟩

/-- Settles O35: SYS is the default advance alone. -/
theorem sysOnlyAdvances : Obligations.SysOnlyAdvances := by
  unfold Obligations.SysOnlyAdvances
  refine fun nnn => ⟨fun hcls hret => ?_, fun s => ⟨_, rfl, rfl, rfl, keepsAllBut_jumpTo s _⟩⟩
  exact decodeOfEncode (.sys nnn) (Bool.and_eq_true_iff.mpr ⟨bne_iff_ne.mpr hcls, bne_iff_ne.mpr hret⟩)

end Sys2Proof.Proofs
end

section
namespace Sys2Proof.Proofs

open Sys2Proof.Machine
open Sys2Proof.Safety

/-! What does not read the keys gives the same result with other levels on the port (spec/60_exceptions.md R263). -/

section
variable (s : State) (k : Word)

theorem driveKeys_withCells {body body' : State} (op : Word) (n : Nat) (hb : body' = body.driveKeys k) :
    (s.driveKeys k).withCells op n body' = (s.withCells op n body).driveKeys k := by
  rw [hb, State.withCells, State.withCells, apply_ite (State.driveKeys · k)]
  rfl

theorem execCall_driveKeys (nnn : Addr) :
    execCall nnn (s.driveKeys k) = mapNext (·.driveKeys k) (execCall nnn s) := by
  rw [execCall, execCall, apply_ite (mapNext _), apply_dite (mapNext _)]
  rfl

theorem execRet_driveKeys : execRet (s.driveKeys k) = mapNext (·.driveKeys k) (execRet s) := by
  rw [execRet, execRet, apply_ite (mapNext _), apply_dite (mapNext _)]
  rfl

end

/-- Settles O27: by the branches of each instruction, whose conditions and updates do not read the port. -/
theorem keysReachThreeInstructions : Obligations.KeysReachThreeInstructions := by
  unfold Obligations.KeysReachThreeInstructions
  intro i s k hi
  simp only [forall_and] at hi
  obtain ⟨hskp, hsknp, hwait⟩ := hi
  cases i
  case skp x => exact absurd rfl (hskp x)
  case sknp x => exact absurd rfl (hsknp x)
  case ldVxK x => exact absurd rfl (hwait x)
  case call => exact execCall_driveKeys s k _
  case ret => exact execRet_driveKeys s k
  case drw | ldB | stRegs | ldRegs => exact congrArg Host.Outcome.next (driveKeys_withCells s k _ _ rfl)
  -- Every other instruction has one branch, whose updates and the port's act on different fields.
  all_goals rfl

/-! The fault table (R240, R242 to R246): for each check, the cause it raises and the condition of the table. -/

/-- FAULT_ADDR of a cause that the execute phase raises (R244, R245). -/
def faultAddr (c : Cause) (s : State) : FaultAddr := if c = .addressOutOfRange then lowestBad s.i else 0

/-- The state after an execute phase whose cause is `c`: the fault taken, or, if there is none, the latch kept and a
status that is not FAULT. -/
inductive EndsWithCause (op : Word) (s : State) : Cause → State → Prop
  | nothing {t : State} (latch : t.latch = s.latch) (status : t.status ≠ .fault) : EndsWithCause op s .none t
  | fault {c : Cause} (hc : c ≠ .none) : EndsWithCause op s c (s.takeFault c op (faultAddr c s))

theorem endsWithCause_withCells {s body : State} {p : Prop} [Decidable p] (op : Word) {n : Nat}
    (hp : p ↔ 4096 < s.i.toNat + n ∧ n ≠ 0) (latch : body.latch = s.latch) (status : body.status = .ok) :
    EndsWithCause op s (if p then .addressOutOfRange else .none) (s.withCells op n body) := by
  rcases withCells_cases s op n body with ⟨hin, e⟩ | ⟨hout, hn, e⟩
  · have hnp : ¬ p := fun h => by
      obtain ⟨hout, hn⟩ := hp.mp h
      exact hin.elim (not_le.mpr hout) hn
    rw [if_neg hnp, e]
    exact .nothing latch (by simp [status])
  · rw [if_pos (hp.mpr ⟨hout, hn⟩), e, firstBad_eq_lowestBad]
    exact .fault (by decide)

theorem endsWithCause_skipOnKey (s : State) (op : Word) (k : Byte) (down : Bool) :
    EndsWithCause op s (if k.toNat > 15 then .keyIndexOutOfRange else .none) (s.skipOnKey op k down) := by
  rw [State.skipOnKey]
  split
  · exact .fault (by decide)
  · exact .nothing rfl (by simp)

theorem endsWithCause_exec_call {nnn : Addr} {s t : State} (h : exec (.call nnn) s = .next t) :
    EndsWithCause (encode (.call nnn)) s (executeCause (.call nnn) s) t := by
  rw [executeCause]
  split
  · cases (exec_call_of_full ‹_›).symm.trans h
    exact .fault (by decide)
  · by_cases hs : SpLegal s
    · cases (exec_call_of_room (room_of_spLegal hs ‹_›)).symm.trans h
      exact .nothing rfl (by simp)
    · cases (execCall_illegal nnn hs).symm.trans h

theorem endsWithCause_exec_ret {s t : State} (h : exec .ret s = .next t) :
    EndsWithCause (encode .ret) s (executeCause .ret s) t := by
  rw [executeCause]
  split
  · cases (exec_ret_of_empty ‹_›).symm.trans h
    exact .fault (by decide)
  · by_cases hk : s.sp.toNat < 16
    · cases (exec_ret_of_entry hk).symm.trans h
      exact .nothing rfl (by simp)
    · have hs : ¬ SpLegal s := not_or.mpr ⟨‹_›, by omega⟩
      cases (execRet_illegal hs).symm.trans h

/-- The execute phase raises the cause of the table, and no other. -/
theorem endsWithCause_exec {i : Instr} {s t : State} (h : exec i s = .next t) :
    EndsWithCause (encode i) s (executeCause i s) t := by
  cases i
  case call => exact endsWithCause_exec_call h
  case ret => exact endsWithCause_exec_ret h
  all_goals obtain rfl := Host.Outcome.next.inj h
  case skp | sknp => exact endsWithCause_skipOnKey s _ _ _
  case ldB | stRegs | ldRegs | drw => exact endsWithCause_withCells _ (by omega) rfl rfl
  case ldVxK =>
    split <;> exact .nothing rfl (by simp)
  -- Every other instruction has one branch, which ends with OK and the latch as it was.
  all_goals exact .nothing rfl (by simp)

/-- Settles O38: the fault taken has the cause of the table, and it writes the latch. -/
theorem executeRaisesExactlyTheTablesCause : Obligations.ExecuteRaisesExactlyTheTablesCause := by
  unfold Obligations.ExecuteRaisesExactlyTheTablesCause
  intro i s t h
  have hr := endsWithCause_exec h
  generalize executeCause i s = c at hr ⊢
  cases hr with
  | nothing latch status => exact ⟨fun _ => ⟨latch, status⟩, fun hc => absurd rfl hc⟩
  | fault hc => exact ⟨fun h0 => absurd h0 hc, fun _ => ⟨rfl, rfl, rfl, rfl, rfl, rfl⟩⟩

/-- Settles O43: of the ways a step that is not halted can end, only the fault taken answers FAULT. -/
theorem faultsArePrecise : Obligations.FaultsArePrecise := by
  unfold Obligations.FaultsArePrecise
  intro s t hh h hf
  cases coreStep_ends h with
  | stays ht => simp [hh] at ht
  | faults _ c op addr hc => exact ⟨c, op, addr, hc, rfl⟩
  | waits => cases hf
  | completes _ _ hc => simp [hc.status] at hf

/-! While the core is halted (R248, R249). -/

theorem coreStep_of_halted {s : State} (h : s.latch.halted = true) : coreStep s = .next { s with status := .fault } :=
  if_pos h

/-- What stays as it is while the core is halted: the latch, PC, the registers, I, SP, the stack and the framebuffer. -/
def Frozen (s t : State) : Prop :=
  t.latch = s.latch ∧ t.pc = s.pc ∧ t.v = s.v ∧ t.i = s.i ∧ t.sp = s.sp ∧ t.stack = s.stack ∧ t.fb = s.fb

/-- An event other than reset acts on a halted core's memory, timers, ports and status alone. -/
theorem event_keeps_frozen {e : Event} {s t u : State} (hh : s.latch.halted = true) (he : e ≠ .assertReset)
    (ht : Frozen s t) (h : e.apply t = .next u) : Frozen s u := by
  cases e with
  | step =>
    have hht : t.latch.halted = true := ht.1 ▸ hh
    cases (coreStep_of_halted hht).symm.trans h
    exact ht
  | loadByte a b =>
    obtain rfl := Host.Outcome.next.inj h
    unfold State.loadByte
    split <;> exact ht
  | tickDt | tickSt | driveKeys | driveRnd =>
    obtain rfl := Host.Outcome.next.inj h
    exact ht
  | assertReset => exact absurd rfl he

/-- Settles O46: each event of the run keeps these parts frozen, the latch with HALTED among them, so the run does. -/
theorem onlyResetClearsLatch : Obligations.OnlyResetClearsLatch := by
  unfold Obligations.OnlyResetClearsLatch
  intro es s t hh hes
  exact runEvents_keeps (P := Frozen s) (fun _ he _ _ => event_keeps_frozen hh (ne_of_mem_of_not_mem he hes))
    ⟨rfl, rfl, rfl, rfl, rfl, rfl, rfl⟩

/-! The loader's port (R260). -/

theorem loadByte_of_not_launched {s : State} (a : Addr) (b : Byte) (h : s.launched = false) :
    s.loadByte a b = s.setMem (s.mem.write a.toNat b) :=
  if_neg (by simp [h])

theorem loadByte_of_launched {s : State} (a : Addr) (b : Byte) (h : s.launched = true) : s.loadByte a b = s :=
  if_pos h

/-- The step of a core that is not halted notes that it was taken (log entry 6). -/
theorem coreStep_launched {s t : State} (hh : s.latch.halted = false) (h : coreStep s = .next t) :
    t.launched = true := by
  cases coreStep_ends h with
  | stays ht => simp [hh] at ht
  | faults | waits => rfl
  | completes _ _ hc =>
    obtain ⟨-, -, hl, -⟩ := hc.inputs
    exact hl

/-- Settles O52: the port writes one cell until a step notes that it was taken, and then nothing. -/
theorem loaderClosedByFirstStep : Obligations.LoaderClosedByFirstStep := by
  unfold Obligations.LoaderClosedByFirstStep
  refine fun s a b => ⟨fun hl => ?_, fun t hh h => ?_⟩
  · refine ⟨_, congrArg Host.Outcome.next (loadByte_of_not_launched a b hl), ?_, fun c hc => ?_, rfl, rfl,
      keepsAllBut_setMem s _⟩
    · rw [setMem_mem, read_write, if_pos rfl]
    · rw [setMem_mem, read_write, if_neg hc]
  · exact congrArg Host.Outcome.next (loadByte_of_launched a b (coreStep_launched hh h))

/-! A step of a core that is not halted and fetches inside memory, by what the opcode at PC decodes to (R262). -/

section
variable {s : State}

theorem coreStep_of_decode (hh : s.latch.halted = false) (hpc : s.pc.toNat ≤ 0xFFE) {i : Instr}
    (hi : decodeWord (opcodeAtPc s) = .ok i) : coreStep s = exec i s.launch := by
  have hf : fetch s.launch = some (opcodeAtPc s) := fetch_of_le hpc
  rw [coreStep, if_neg (by simp [hh]), fetchDecodeExecute, hf]
  simp only [hi]

theorem coreStep_of_decode_error (hh : s.latch.halted = false) (hpc : s.pc.toNat ≤ 0xFFE) {e : DecodeError}
    (he : decodeWord (opcodeAtPc s) = .error e) :
    coreStep s = .next (s.launch.takeFault .invalidOpcode (opcodeAtPc s) 0) := by
  have hf : fetch s.launch = some (opcodeAtPc s) := fetch_of_le hpc
  rw [coreStep, if_neg (by simp [hh]), fetchDecodeExecute, hf]
  simp only [he]

end

/-- Settles O39: the driver's turn changes neither the latch nor PC nor memory. -/
theorem stepRunsDecodedInstruction : Obligations.StepRunsDecodedInstruction := by
  unfold Obligations.StepRunsDecodedInstruction
  intro s i hh hpc hi
  rw [wordOfBytes_eq_opcodeAtPc] at hi
  exact coreStep_of_decode (s := s.driverTurn) hh hpc hi

/-- Settles O41: the fault taken halts the core with status FAULT, so that a further step changes nothing. -/
theorem invalidOpcodeRaises : Obligations.InvalidOpcodeRaises := by
  unfold Obligations.InvalidOpcodeRaises
  exact fun s _ hh hpc he =>
    ⟨_, coreStep_of_decode_error hh hpc he, stepRaised_launch_takeFault s _ _ _, coreStep_of_halted rfl⟩

/-! The ticks and the output ports (R255, R261). -/

/-- Settles O53: a tick is one write of its timer. -/
theorem ticksSaturate : Obligations.TicksSaturate := by
  unfold Obligations.TicksSaturate
  exact fun s => ⟨⟨_, rfl, tick_toNat s.dt, rfl, rfl, keepsAllBut_setDt s _⟩,
    ⟨_, rfl, tick_toNat s.st, rfl, rfl, keepsAllBut_setSt s _⟩⟩

theorem getLsbD_outputs_fb (s : State) (row : Fin 32) (col : Fin 64) :
    (outputs s).fb.getLsbD (row.val * 64 + col.val) = Display.get s.fb row col := by
  have hrow : (row.val * 64 + col.val) / 64 = row.val := by omega
  have hcol : (row.val * 64 + col.val) % 64 = col.val := by omega
  rw [outputs, fbPort, BitVec.getLsbD_ofFnLE, dif_pos (by omega)]
  simp only [hrow, hcol]

/-- No two statuses have one code. -/
theorem status_code_eq_iff (a b : Status) : a.code = b.code ↔ a = b := by
  cases a <;> cases b <;> decide

/-- No two causes have one code. -/
theorem cause_code_eq_iff (a b : Cause) : a.code = b.code ↔ a = b := by
  cases a <;> cases b <;> decide

/-- Settles O42: a halted step answers FAULT alone; the ticks and the port `fb` do not look at the latch. -/
theorem haltedStepDoesNothing : Obligations.HaltedStepDoesNothing := by
  unfold Obligations.HaltedStepDoesNothing
  exact fun s hh => ⟨coreStep_of_halted hh, ⟨_, rfl, tick_toNat s.dt, rfl⟩, ⟨_, rfl, tick_toNat s.st, rfl⟩,
    getLsbD_outputs_fb s⟩

/-- Settles O55: the framebuffer pixel by pixel, and no two statuses or causes have one code. -/
theorem outputsCarryTheirBits : Obligations.OutputsCarryTheirBits := by
  unfold Obligations.OutputsCarryTheirBits
  intro s
  have hstatus := status_code_eq_iff s.status
  have hcause := cause_code_eq_iff s.latch.cause
  exact ⟨getLsbD_outputs_fb s, rfl, rfl, hstatus .ok, hstatus .waitKey, hstatus .fault,
    BitVec.ofBool_eq_iff_eq (b' := true), hcause .none, hcause .invalidOpcode, hcause .stackOverflow,
    hcause .stackUnderflow, hcause .addressOutOfRange, hcause .keyIndexOutOfRange, rfl, rfl, rfl⟩

end Sys2Proof.Proofs
end

section
namespace Sys2Proof.Proofs

open Sys2Proof.Machine
open Sys2Proof.Safety

/-! Reset and launch (spec/70_reset_and_hazards.md R280 to R284). -/

section
variable (font : Font)

theorem read_resetWith_fin (a : Fin 80) : (State.resetWith font).mem.read a.val = font[a] :=
  (read_resetWith font a.val).trans (dif_pos a.isLt)

theorem read_resetWith_of_le {a : Nat} (h : 80 ≤ a) : (State.resetWith font).mem.read a = 0 :=
  (read_resetWith font a).trans (dif_neg (Nat.not_lt.mpr h))

/-- The launch state is the state after reset with the image stored from PROG_BASE on. -/
theorem launchState_of_le {rom : List Byte} (h : rom.length ≤ 3584) :
    launchState font rom = some ((State.resetWith font).setMem ((State.resetWith font).mem.writeBytes 0x200 rom)) :=
  if_neg (not_or.mpr ⟨Bool.false_ne_true, Nat.not_lt.mpr h⟩)

theorem launchState_of_gt {rom : List Byte} (h : 3584 < rom.length) : launchState font rom = none :=
  if_pos (.inr h)

end

theorem keepsAllBut_inputs (s : State) (k : Word) (r : Byte) (n : Nat) :
    KeepsAllBut [.inputs] s { s with keys := k, rnd := r, turn := n } :=
  keepsAllBut_of_fields

/-- Settles O51: the image is one block write over the memory after reset, above the font. -/
theorem launchStateHoldsImage : Obligations.LaunchStateHoldsImage := by
  unfold Obligations.LaunchStateHoldsImage
  refine fun font rom => ⟨fun hlen => ?_, launchState_of_gt font⟩
  refine ⟨_, launchState_of_le font hlen, fun a => ?_, fun k hk => ?_, fun a hfont hout => ?_, rfl, rfl,
    keepsAllBut_mono (by simp) (keepsAllBut_setMem _ _)⟩
  · rw [setMem_mem, read_writeBytes_outside _ (.inl (by omega)), read_resetWith_fin]
  · rw [setMem_mem, read_writeBytes, if_pos (by omega), Nat.add_sub_cancel_left]
  · rw [setMem_mem, read_writeBytes_outside _ hout, read_resetWith_of_le font hfont]

/-- Settles O49: memory is that of the reset with the machine's own font, and nothing but the inputs is carried over. -/
theorem resetFromAnyState : Obligations.ResetFromAnyState := by
  unfold Obligations.ResetFromAnyState
  exact fun s => ⟨s.assertReset, rfl, keepsAllBut_inputs _ _ _ _, read_resetWith_fin s.font,
    fun _ => read_resetWith_of_le s.font, rfl, rfl, rfl, rfl, rfl, rfl⟩

/-! The end of a run (R289). -/

/-- An address inside memory survives the 12 bits of an instruction's `nnn`. -/
theorem addrWord_ofNat_toNat {w : Word} (h : w.toNat < 0x1000) : addrWord (BitVec.ofNat 12 w.toNat) = w := by
  rw [addrWord_eq_ofNat, BitVec.toNat_ofNat, Nat.mod_eq_of_lt h, BitVec.ofNat_toNat, BitVec.setWidth_eq]

/-- Settles O47: the step executes the JP at PC, whose target is PC itself. -/
theorem finishedIsFixedPoint : Obligations.FinishedIsFixedPoint := by
  unfold Obligations.FinishedIsFixedPoint
  rintro s ⟨hpc, hjp⟩ hh
  have htarget : addrWord (BitVec.ofNat 12 s.pc.toNat) = s.pc := addrWord_ofNat_toNat (by omega)
  calc coreStep s
    _ = .next (s.launch.jumpTo (addrWord (BitVec.ofNat 12 s.pc.toNat))) := coreStep_of_decode hh hpc hjp
    _ = .next { s with status := .ok, launched := true } := by
      rw [htarget]
      rfl

end Sys2Proof.Proofs
end

section
namespace Sys2Proof.Proofs

/-! The decode vectors (spec/95_test_vectors.md section 2.1). -/

/-- Settles O5: nine of the words encode well-formed instructions, so the round trip reads them back; 0xFFFF falls through
the F-group. -/
theorem specWordsDecode : Obligations.SpecWordsDecode := by
  unfold Obligations.SpecWordsDecode
  exact ⟨decodeOfEncode .cls rfl, decodeOfEncode .ret rfl, decodeOfEncode (.sys 0x0E1) rfl,
    decodeOfEncode (.addReg 10 11) rfl, decodeOfEncode (.shl 10 11) rfl, decodeOfEncode (.seReg 1 2 7) rfl,
    decodeOfEncode (.sknp 15) rfl, decodeOfEncode (.drw 0 0 0) rfl, decodeOfEncode (.jp 0x234) rfl, rfl⟩

end Sys2Proof.Proofs
end
